-- ==== Sys2Proof/Word.lean ====
section
/-! DEFINITION. The fixed word sizes (spec/00_scope.md R5, R4): a byte, the command word, the opcode and
operand fields. Every bit vector is read as an unsigned number (section 6.1). -/
namespace Sys2Proof

/-- A byte of a digest or of a difficulty encoding; bit 7 is its most significant bit (R5, R32). -/
abbrev Byte := BitVec 8

/-- The command word `cmd[15:0]` (R5, R40). -/
abbrev CmdWord := BitVec 16

/-- The opcode field `cmd[15:12]` (R5, R40). -/
abbrev Opcode := BitVec 4

/-- A 12-bit unsigned number: the operand field `cmd[11:0]` (R5), the `required` register (R4), and the
container of the `count` register, whose width `COUNT_W` is at most 12 (R3). -/
abbrev Number := BitVec 12

end Sys2Proof
end

