-- ==== Sys2Proof/Syntax.lean ====
section
/-! DEFINITION. The seven commands of spec/30_encoding.md R42, one constructor per row of
spec/opcode_table.json. The operand types hold exactly the operand fields of R41 and R43. -/
namespace Sys2Proof

/-- A command. -/
inductive Instr where
  /-- NOP (R58). -/
  | nop
  /-- START: begin a new sequence (R59). -/
  | start
  /-- BYTE b: the next byte of the current sequence (R60). -/
  | byte (b : Byte)
  /-- BYTEF b: the first byte of a new sequence (R61). -/
  | bytef (b : Byte)
  /-- LATCH: store the count as the threshold (R70). -/
  | latch
  /-- SETREQ n: load the threshold as a number (R71). -/
  | setreq (n : Number)
  /-- CLRERR: leave the error state (R80). -/
  | clrerr
deriving DecidableEq, Repr

end Sys2Proof
end

