-- ==== Sys2Proof/Decode.lean ====
section
/-! DEFINITION. The decoder, total on all 65536 words (spec/30_encoding.md R40 to R46), and after it the
encoder written from the same tables (R41, R42). -/
namespace Sys2Proof

/-- Why a word spells no command. The block itself makes no difference between the two: both raise
ILLEGAL_CMD (R86). The names are the model's (log 12). -/
inductive DecodeError where
  /-- The opcode is one of 7 to 15 (R45). -/
  | reservedOpcode (op : Opcode)
  /-- The opcode is defined and a reserved operand bit is not zero (R46). -/
  | reservedBits (op : Opcode)
deriving DecidableEq, Repr

/-- `cmd[15:12]` (R40). -/
def opcodeOf (w : CmdWord) : Opcode := w.extractLsb' 12 4

/-- `cmd[11:0]`, the operand `n` of format N (R41, R43). -/
def numberOf (w : CmdWord) : Number := w.extractLsb' 0 12

/-- `cmd[11:8]`, reserved in formats Z and B (R41). -/
def upperOf (w : CmdWord) : BitVec 4 := w.extractLsb' 8 4

/-- `cmd[7:0]`, the operand `b` of format B (R41, R43). -/
def byteOf (w : CmdWord) : Byte := w.extractLsb' 0 8

/-- Format Z: all of `cmd[11:0]` is reserved (R41, R46). -/
def formatZ (i : Instr) (w : CmdWord) : Except DecodeError Instr :=
  if numberOf w = 0#12 then .ok i else .error (.reservedBits (opcodeOf w))

/-- Format B: `cmd[11:8]` is reserved (R41, R46). -/
def formatB (i : Byte → Instr) (w : CmdWord) : Except DecodeError Instr :=
  if upperOf w = 0#4 then .ok (i (byteOf w)) else .error (.reservedBits (opcodeOf w))

/-- Format N: no reserved bits (R41). -/
def formatN (i : Number → Instr) (w : CmdWord) : Except DecodeError Instr :=
  .ok (i (numberOf w))

/-- The opcode map (R42), with the reserved opcodes of R45. -/
def decode (w : CmdWord) : Except DecodeError Instr :=
  if opcodeOf w = 0#4 then formatZ .nop w
  else if opcodeOf w = 1#4 then formatZ .start w
  else if opcodeOf w = 2#4 then formatB .byte w
  else if opcodeOf w = 3#4 then formatB .bytef w
  else if opcodeOf w = 4#4 then formatZ .latch w
  else if opcodeOf w = 5#4 then formatN .setreq w
  else if opcodeOf w = 6#4 then formatZ .clrerr w
  else .error (.reservedOpcode (opcodeOf w))

/-- The encoder: the bit patterns of R42's table in the layouts of R41. -/
def encode : Instr → CmdWord
  | .nop => 0x0#4 ++ 0x000#12
  | .start => 0x1#4 ++ 0x000#12
  | .byte b => 0x2#4 ++ (0x0#4 ++ b)
  | .bytef b => 0x3#4 ++ (0x0#4 ++ b)
  | .latch => 0x4#4 ++ 0x000#12
  | .setreq n => 0x5#4 ++ n
  | .clrerr => 0x6#4 ++ 0x000#12

/-- The `mask` of the command's row of spec/opcode_table.json. -/
def rowMask : Instr → CmdWord
  | .byte _ | .bytef _ => 0xFF00#16
  | .setreq _ => 0xF000#16
  | .nop | .start | .latch | .clrerr => 0xFFFF#16

/-- The `match` of the command's row of spec/opcode_table.json. -/
def rowMatch : Instr → CmdWord
  | .nop => 0x0000#16
  | .start => 0x1000#16
  | .byte _ => 0x2000#16
  | .bytef _ => 0x3000#16
  | .latch => 0x4000#16
  | .setreq _ => 0x5000#16
  | .clrerr => 0x6000#16

/-- The command this decoder reads from a word whose bits are `w`, numbered as spec/opcode_table.json
numbers them. There is one length, 16 bits, presented whole (R33, R40): no word is wider. -/
def decodeTableWord (nbits w : Nat) : Option Instr :=
  if nbits ≤ 16 then (decode (BitVec.ofNat 16 (w % 2 ^ nbits))).toOption else none

end Sys2Proof
end

