-- ==== Sys2Proof/Machine/Operands.lean ====
section
/-! DEFINITION. The per-byte leading-zero count of the byte operand, and the sequence count it adds up to
(spec/40_sequence_commands.md R55, R57). -/
namespace Sys2Proof.Machine

/-- `lzb(b)`: the zero bits of `b` before its first 1 bit, from bit 7 down; 8 for the zero byte (R55). -/
def lzb (b : Byte) : Nat :=
  if b.getLsbD 7 then 0
  else if b.getLsbD 6 then 1
  else if b.getLsbD 5 then 2
  else if b.getLsbD 4 then 3
  else if b.getLsbD 3 then 4
  else if b.getLsbD 2 then 5
  else if b.getLsbD 1 then 6
  else if b.getLsbD 0 then 7
  else 8

/-- `lzs(bs)`: the sequence count, a function of the specification that the block holds no list for (R57). -/
def lzs : List Byte → Nat
  | [] => 0
  | b :: rest => if lzb b < 8 then lzb b else 8 + lzs rest

end Sys2Proof.Machine
end

