-- ==== Sys2Proof/Config.lean ====
section
/-! DEFINITION. The structural parameter MAX_LEN and what is derived from it (spec/00_scope.md R1 to R4).
The parameter itself is an argument here and a field of State that no step writes (log 3), so every claim
holds for every admitted value. The spec leaves no result undefined: there is no free value. -/
namespace Sys2Proof

/-- The admitted values of MAX_LEN (R1); outside them there is no configuration (U15). -/
abbrev Config.Admitted (maxLen : Nat) : Prop := 1 ≤ maxLen ∧ maxLen ≤ 511

/-- The reference value of MAX_LEN (R1). -/
def Config.referenceMaxLen : Nat := 32

/-- `COUNT_MAX` (R2). -/
def Config.countMax (maxLen : Nat) : Nat := 8 * maxLen

/-- `COUNT_W`, the least width that holds every value `0..COUNT_MAX` (R3). For a positive number `n` the
rule's `ceil(log2(n + 1))` is one more than the integer logarithm of `n`. -/
def Config.countW (maxLen : Nat) : Nat := Nat.log2 (Config.countMax maxLen) + 1

/-- `REQ_NEVER`, the threshold no count can meet (R4). -/
def Config.reqNever : Number := 4095#12

end Sys2Proof
end

