-- ==== Sys2Proof/Machine/State.lean ====
section
/-! DEFINITION. The state: the five registers of spec/10_state.md R10, the parameter MAX_LEN (log 3), and the
inputs the host drives at the coming edges (log 1). Plain data. -/
namespace Sys2Proof.Machine

/-- The values of the `err_cause` register (R15, R85). Value 3 is never produced, so the type has none (U12, log 8). -/
inductive ErrCause where
  /-- NONE, code 0. -/
  | none
  /-- ILLEGAL_CMD, code 1 (R86). -/
  | illegalCmd
  /-- OVERLONG, code 2 (R87). -/
  | overlong
deriving DecidableEq, Repr

/-- The inputs sampled at one rising edge of `clk` (R21). -/
structure Inputs where
  /-- Synchronous reset, active high (R100). -/
  rst : Bool
  /-- `true`: `cmd` carries a command; `false`: an idle cycle (R47). -/
  cmdValid : Bool
  /-- The command word (R40). -/
  cmd : CmdWord
deriving DecidableEq, Repr

/-- The machine. The first field is a parameter, the next five are the registers of R10, the last is the
host's side of the command port. -/
structure State where
  /-- MAX_LEN (R1). No step writes it (log 3). -/
  maxLen : Nat
  /-- The accumulator (R11). Its bits from `COUNT_W` up are written zero (log 5). -/
  count : Number
  /-- A byte that is not all zero has been accumulated in the current sequence (R12). -/
  stopped : Bool
  /-- The threshold (R13). -/
  required : Number
  /-- The block is in the error state (R14). -/
  err : Bool
  /-- Why `err` was set (R15). -/
  errCause : ErrCause
  /-- What the host drives at the coming edges, the next edge first (R21, log 1). -/
  script : List Inputs
deriving DecidableEq, Repr

/-- Reasons for which the model stops although the block would go on. There are none: ILLEGAL_CMD and
OVERLONG are error entries the block itself makes (R89), hence next states (log 9). -/
inductive Fault where
deriving DecidableEq, Repr

/-- What the model gives no meaning to. -/
inductive Refusal where
  /-- Raised by an arm of exec whose instruction has no meaning yet. Safe: the model stops. No arm raises it. -/
  | notModelled (mnemonic : String)
  /-- Raised by the clock edge in a state whose MAX_LEN lies outside 1..511, which is no admitted
  configuration (R1, U15: 'refuse'). Safe: the model stops (log 4). -/
  | maxLenNotAdmitted (maxLen : Nat)
deriving DecidableEq, Repr

/-- The machine right after a RESET step (R23), at the reference MAX_LEN (R1), with nothing yet driven by the host. -/
def State.reset : State where
  maxLen := Config.referenceMaxLen
  count := 0#12
  stopped := false
  required := Config.reqNever
  err := false
  errCause := .none
  script := []

end Sys2Proof.Machine
end

