-- ==== Sys2Proof/Machine/Ops.lean ====
section
/-! DEFINITION. The named operations over the registers: one writer per register, the sequence start, the
error entry (spec/60_exceptions.md R89) with the return from it (spec/42_system_commands.md R80), RESET
(spec/10_state.md R23) and the freeze (R90). There is no memory (R30). -/
namespace Sys2Proof.Machine

/-- `COUNT_MAX` of this machine (R2). -/
def State.countMax (s : State) : Nat := Config.countMax s.maxLen

/-- `count <- v`: the register has `COUNT_W` bits, so it holds the low `COUNT_W` bits of `v`. By R65 no
reachable write loses a bit (log 5). -/
def State.setCount (s : State) (v : Nat) : State :=
  { s with count := BitVec.ofNat 12 (v % 2 ^ Config.countW s.maxLen) }

/-- `stopped <- v`. -/
def State.setStopped (s : State) (v : Bool) : State := { s with stopped := v }

/-- `required <- v`. -/
def State.setRequired (s : State) (v : Number) : State := { s with required := v }

/-- `err <- e; err_cause <- c`: the two are always written together (R15). -/
def State.setError (s : State) (e : Bool) (c : ErrCause) : State := { s with err := e, errCause := c }

/-- The host's inputs for the edges after this one. -/
def State.setScript (s : State) (rest : List Inputs) : State := { s with script := rest }

/-- The 2-bit code of a cause (R15, R85). -/
def ErrCause.code : ErrCause → BitVec 2
  | .none => 0#2
  | .illegalCmd => 1#2
  | .overlong => 2#2

/-- A sequence start: `count <- 0; stopped <- 0` (R59, glossary of 00_scope.md). -/
def State.startSequence (s : State) : State := (s.setCount 0).setStopped false

/-- Error entry, `raise C` (R89): `err` and `err_cause` and nothing else. -/
def State.raiseError (s : State) (c : ErrCause) : State := s.setError true c

/-- The return from the error state (R80, R92): the error is cleared and a new sequence begins. -/
def State.leaveError (s : State) : State := (s.setError false .none).startSequence

/-- The RESET step's writes (R23): every register, whatever it held (R101). -/
def State.resetRegisters (s : State) : State :=
  ((s.setError false .none).startSequence).setRequired Config.reqNever

/-- The freeze (R90): the effect `t` of a command happens only while `err = 0`. -/
def State.whenRunning (s : State) (t : State) : State := if s.err then s else t

end Sys2Proof.Machine
end

