-- ==== Sys2Proof/Machine/Flags.lean ====
section
/-! DEFINITION. The stop condition, the comparator, and the output ports (spec/40_sequence_commands.md R60,
spec/41_threshold_commands.md R72, spec/10_state.md R19, R22). -/
namespace Sys2Proof.Machine

/-- Accumulating a byte stops the sequence when the byte is not all zero, that is when `lzb(b) < 8` (R12, R60). -/
def stopsSequence (b : Byte) : Bool := decide (lzb b < 8)

/-- The `pass` output: `err = 0` and `zext_12(count) >= required`, unsigned; ties pass (R72, R73). -/
def State.pass (s : State) : Bool := !s.err && decide (s.required.toNat ≤ s.count.toNat)

/-- The output ports (R22). -/
structure Outputs where
  count : Number
  stopped : Bool
  required : Number
  err : Bool
  errCause : BitVec 2
  pass : Bool
  lzb : BitVec 4
deriving DecidableEq, Repr

/-- The outputs in the cycle in which the registers are those of `s` and the host presents `e`: all of them
show registers but `lzb`, which shows the byte on the command port whatever the other inputs are (R22). -/
def State.outputs (s : State) (e : Inputs) : Outputs where
  count := s.count
  stopped := s.stopped
  required := s.required
  err := s.err
  errCause := s.errCause.code
  pass := s.pass
  lzb := BitVec.ofNat 4 (Sys2Proof.Machine.lzb (byteOf e.cmd))

end Sys2Proof.Machine
end

