-- ==== Sys2Proof/Machine/Sequence.lean ====
section
/-! DEFINITION. The counting family: NOP, START, BYTE, BYTEF (spec/40_sequence_commands.md). -/
namespace Sys2Proof.Machine

/-- The third case of BYTE: add the byte's count, stop if the byte is not all zero (R60). -/
def State.accumulate (s : State) (b : Byte) : State :=
  (s.setCount (s.count.toNat + lzb b)).setStopped (s.stopped || stopsSequence b)

/-- BYTE outside the error state, its three cases in the order of R60: discarded, OVERLONG, accumulated. -/
def State.feedByte (s : State) (b : Byte) : State :=
  if s.stopped then s
  else if s.count.toNat = s.countMax then s.raiseError .overlong
  else s.accumulate b

/-- NOP (R58). -/
def execNop (s : State) : Host.Outcome State Fault Refusal := .next s

/-- START (R59). -/
def execStart (s : State) : Host.Outcome State Fault Refusal :=
  .next (s.whenRunning s.startSequence)

/-- BYTE b (R60). -/
def execByte (b : Byte) (s : State) : Host.Outcome State Fault Refusal :=
  .next (s.whenRunning (s.feedByte b))

/-- BYTEF b (R61): the old `count` and `stopped` are not read. -/
def execBytef (b : Byte) (s : State) : Host.Outcome State Fault Refusal :=
  .next (s.whenRunning ((s.setCount (lzb b)).setStopped (stopsSequence b)))

end Sys2Proof.Machine
end

