-- ==== Sys2Proof/Machine/System.lean ====
section
/-! DEFINITION. The system family: CLRERR (spec/42_system_commands.md). -/
namespace Sys2Proof.Machine

/-- CLRERR, for either value of `err` (R80). -/
def execClrerr (s : State) : Host.Outcome State Fault Refusal := .next s.leaveError

end Sys2Proof.Machine
end

