-- ==== Sys2Proof/Machine/Threshold.lean ====
section
/-! DEFINITION. The threshold family: LATCH, SETREQ (spec/41_threshold_commands.md). -/
namespace Sys2Proof.Machine

/-- LATCH (R70). The container of `count` already has the 12 bits of `zext_12`. -/
def execLatch (s : State) : Host.Outcome State Fault Refusal :=
  .next (s.whenRunning (s.setRequired s.count))

/-- SETREQ n (R71). -/
def execSetreq (n : Number) (s : State) : Host.Outcome State Fault Refusal :=
  .next (s.whenRunning (s.setRequired n))

end Sys2Proof.Machine
end

