-- ==== Sys2Proof/Machine/Dispatch.lean ====
section
/-! DEFINITION. exec: one arm per command (spec/30_encoding.md R42). -/
namespace Sys2Proof.Machine

def exec (i : Instr) (s : State) : Host.Outcome State Fault Refusal :=
  match i with
  | .nop => Sys2Proof.Machine.execNop s
  | .start => Sys2Proof.Machine.execStart s
  | .byte b => Sys2Proof.Machine.execByte b s
  | .bytef b => Sys2Proof.Machine.execBytef b s
  | .latch => Sys2Proof.Machine.execLatch s
  | .setreq n => Sys2Proof.Machine.execSetreq n s
  | .clrerr => Sys2Proof.Machine.execClrerr s

end Sys2Proof.Machine
end

