-- ==== Sys2Proof/Machine/Cycle.lean ====
section
/-! DEFINITION. One rising edge of the clock (spec/30_encoding.md R48). -/
namespace Sys2Proof.Machine

/-- A presented command word: the command it spells, or ILLEGAL_CMD if it spells none and the block is not
frozen (R48, R86, R90). The meanings themselves hold the freeze of the legal commands. -/
def runWord (w : CmdWord) (s : State) : Host.Outcome State Fault Refusal :=
  match decode w with
  | .ok i => exec i s
  | .error _ => .next (s.whenRunning (s.raiseError .illegalCmd))

/-- The inputs sampled at one edge: reset beats everything, an idle cycle does nothing (R48, R82, R81). -/
def clockEdge (e : Inputs) (s : State) : Host.Outcome State Fault Refusal :=
  if e.rst then .next s.resetRegisters
  else if e.cmdValid then runWord e.cmd s
  else .next s

/-- The edge at which the host's next inputs are sampled; a host with nothing left to send idles (R81, log 2).
MAX_LEN outside 1..511 is refused (U15, log 4). -/
def nextEdge (s : State) : Host.Outcome State Fault Refusal :=
  if Config.Admitted s.maxLen then
    match s.script with
    | [] => .next s
    | e :: rest => clockEdge e (s.setScript rest)
  else .refused (.maxLenNotAdmitted s.maxLen)

/-- The host presents the command word `w` at the next edge, in the place of what it would have driven there (log 7). -/
def State.presentWord (s : State) (w : CmdWord) : State :=
  s.setScript ({ rst := false, cmdValid := true, cmd := w } :: s.script.tail)

end Sys2Proof.Machine
end

