-- ==== Sys2Proof/Machine/Script.lean ====
section
/-! DEFINITION. The spec's own notation for what a host drives (spec/30_encoding.md R49, R50): script lines, one
clock edge each, and the four pseudo-commands. Abstract syntax only: the spelling of numbers, comments and the
repetition mark of R49 are text, not behaviour (log 11). -/
namespace Sys2Proof.Machine

/-- One line of a script (R49's table). Operands are numbers as written; Line.wellFormed checks their range. -/
inductive Line where
  /-- `RESET`: `cmd_valid` and `cmd` anything. -/
  | reset (cmdValid : Bool) (cmd : CmdWord)
  /-- `idle`: `cmd` anything. -/
  | idle (cmd : CmdWord)
  | nop
  | start
  | byte (b : Nat)
  | bytef (b : Nat)
  | latch
  | setreq (n : Nat)
  | clrerr
  /-- `WORD w`: any 16-bit value. -/
  | word (w : CmdWord)
deriving DecidableEq, Repr

/-- A command presented at an edge. -/
def Inputs.command (w : CmdWord) : Inputs where
  rst := false
  cmdValid := true
  cmd := w

/-- The inputs driven at the edge of a line (R49's table). -/
def Line.inputs : Line → Inputs
  | .reset v w => { rst := true, cmdValid := v, cmd := w }
  | .idle w => { rst := false, cmdValid := false, cmd := w }
  | .nop => .command 0x0000#16
  | .start => .command 0x1000#16
  | .byte b => .command (BitVec.ofNat 16 (0x2000 + b))
  | .bytef b => .command (BitVec.ofNat 16 (0x3000 + b))
  | .latch => .command 0x4000#16
  | .setreq n => .command (BitVec.ofNat 16 (0x5000 + n))
  | .clrerr => .command 0x6000#16
  | .word w => .command w

/-- The shorthands of R50. -/
inductive Pseudo where
  | seq (bs : List Nat)
  | seqf (bs : List Nat)
  | loaddiff (bs : List Nat)
  | check (bs : List Nat)
deriving DecidableEq, Repr

/-- What a shorthand expands to (R50). `SEQF` of no byte is not well formed and expands to nothing. -/
def Pseudo.lines : Pseudo → List Line
  | .seq bs => .start :: bs.map .byte
  | .seqf [] => []
  | .seqf (b :: bs) => .bytef b :: bs.map .byte
  | .loaddiff bs => .start :: bs.map .byte ++ [.latch]
  | .check bs => .start :: bs.map .byte

/-- The inputs of a list of lines, one edge each, top to bottom (R49). -/
def driven (ls : List Line) : List Inputs := ls.map Line.inputs

end Sys2Proof.Machine
end

