-- ==== Sys2Proof/WellFormed.lean ====
section
/-! DEFINITION. The checks on what the spec writes with a range and the types do not already hold: script lines and
pseudo-commands (spec/30_encoding.md R49, R50) and the configuration (spec/00_scope.md R1). A command itself needs no
check: the operand types of Instr hold exactly the operands of R43, so every Instr is well formed. -/
namespace Sys2Proof.Machine

/-- The operand ranges of R49; a value out of range is an error of the script, which the block never sees. -/
def Line.wellFormed : Line → Bool
  | .byte b | .bytef b => decide (b ≤ 255)
  | .setreq n => decide (n ≤ 4095)
  | .reset _ _ | .idle _ | .nop | .start | .latch | .clrerr | .word _ => true

/-- The lengths of R50 and the ranges of R49. -/
def Pseudo.wellFormed : Pseudo → Bool
  | .seqf bs => !bs.isEmpty && bs.all (· ≤ 255)
  | .seq bs | .loaddiff bs | .check bs => bs.all (· ≤ 255)

/-- The configuration of a state is admitted (R1). -/
def State.wellFormed (s : State) : Bool := decide (Config.Admitted s.maxLen)

end Sys2Proof.Machine
end

