-- ==== Sys2Proof/Safety.lean ====
section
/-! DEFINITION. The terms claims use: runs, the invariants of spec/10_state.md R16, what the lines of a sequence
feed (spec/40_sequence_commands.md R62), the bit string of R63, and the pseudocode of spec/30_encoding.md R48
written a second time over natural numbers, straight from the rules, for the step to be held against. -/
namespace Sys2Proof.Machine

/-- `k` edges. -/
def runs : Nat → State → Host.Outcome State Fault Refusal
  | 0, s => .next s
  | k + 1, s =>
    match step s with
    | .next t => runs k t
    | .fault r => .fault r
    | .refused r => .refused r

/-- Presented while `err = 0`, the word raises ILLEGAL_CMD and does nothing else (R86, R89). -/
def RaisesIllegalCmd (w : CmdWord) : Prop :=
  ∀ (s : State) (rest : List Inputs), Config.Admitted s.maxLen → s.err = false → s.script = .command w :: rest →
    step s = .next { s with err := true, errCause := .illegalCmd, script := rest }

/-- A RESET state at any MAX_LEN, with any behaviour of the host to come. -/
def State.resetAt (maxLen : Nat) (script : List Inputs) : State :=
  { State.reset with maxLen := maxLen, script := script }

/-- The invariants of R16, over an admitted MAX_LEN. -/
abbrev State.Inv (s : State) : Prop :=
  Config.Admitted s.maxLen ∧
  s.count.toNat ≤ s.countMax ∧
  (s.stopped = false → s.count.toNat % 8 = 0) ∧
  (s.stopped = true → s.count.toNat + 1 ≤ s.countMax) ∧
  (s.err = true ↔ s.errCause ≠ .none) ∧
  (s.errCause = .overlong → s.stopped = false ∧ s.count.toNat = s.countMax)

/-- The bits of a byte, bit 7 first (R32, R63). -/
def bitsOf (b : Byte) : List Bool :=
  [b.getLsbD 7, b.getLsbD 6, b.getLsbD 5, b.getLsbD 4, b.getLsbD 3, b.getLsbD 2, b.getLsbD 1, b.getLsbD 0]

/-- The zero bits before the first 1 bit, or the length if there is none (R63). -/
def leadingZeroBits : List Bool → Nat
  | [] => 0
  | true :: _ => 0
  | false :: rest => 1 + leadingZeroBits rest

/-- `Z` of R62: the number of leading zero bytes. -/
def leadingZeroBytes (bs : List Byte) : Nat := (bs.takeWhile (· = 0#8)).length

/-- The sequences that raise no error (R62 case (a)). -/
abbrev Fits (maxLen : Nat) (bs : List Byte) : Prop :=
  bs.length ≤ maxLen ∨ leadingZeroBytes bs < maxLen

/-- The bytes of a list of bytes as the operands of script lines. -/
def operands (bs : List Byte) : List Nat := bs.map BitVec.toNat

/-- The byte a line of a running sequence feeds, if it is a BYTE. -/
def Line.feeds : Line → Option Byte
  | .byte b => some (BitVec.ofNat 8 b)
  | .reset _ _ | .idle _ | .nop | .start | .bytef _ | .latch | .setreq _ | .clrerr | .word _ => none

/-- The bytes the lines feed, in order. -/
def fed (ls : List Line) : List Byte := ls.filterMap Line.feeds

/-- The lines R62 allows after a sequence start: BYTE, idle, NOP, LATCH, SETREQ, within their ranges. -/
def Line.inSequence : Line → Bool
  | .byte b => decide (b ≤ 255)
  | .setreq n => decide (n ≤ 4095)
  | .idle _ | .nop | .latch => true
  | .reset _ _ | .start | .bytef _ | .clrerr | .word _ => false

/-- The lines that keep a sequence and its threshold: BYTE, idle, NOP (R76, R110). -/
def Line.keepsThreshold : Line → Bool
  | .byte b => decide (b ≤ 255)
  | .idle _ | .nop => true
  | .reset _ _ | .start | .bytef _ | .latch | .setreq _ | .clrerr | .word _ => false

/-- The bytes with which a line begins a new sequence: none for a sequence start, one for BYTEF (R62). -/
def Line.begins : Line → Option (List Byte)
  | .reset _ _ | .start | .clrerr => some []
  | .bytef b => if b ≤ 255 then some [BitVec.ofNat 8 b] else none
  | .idle _ | .nop | .byte _ | .latch | .setreq _ | .word _ => none

end Sys2Proof.Machine

namespace Sys2Proof.Spec

/-- The five registers of R10 as numbers. -/
structure Regs where
  count : Nat
  stopped : Bool
  required : Nat
  err : Bool
  errCause : Nat
deriving DecidableEq, Repr

/-- `legal(cmd)` (R44), on the number of the word. -/
abbrev Legal (w : Nat) : Prop :=
  ((w / 4096 = 0 ∨ w / 4096 = 1 ∨ w / 4096 = 4 ∨ w / 4096 = 6) ∧ w % 4096 = 0) ∨
  ((w / 4096 = 2 ∨ w / 4096 = 3) ∧ w / 256 % 16 = 0) ∨
  w / 4096 = 5

/-- R56's table, by value range. -/
def zeros (b : Nat) : Nat :=
  if b ≥ 0x80 then 0 else if b ≥ 0x40 then 1 else if b ≥ 0x20 then 2 else if b ≥ 0x10 then 3
  else if b ≥ 0x08 then 4 else if b ≥ 0x04 then 5 else if b ≥ 0x02 then 6 else if b = 0x01 then 7 else 8

/-- R23. -/
def resetRegs : Regs where
  count := 0
  stopped := false
  required := 4095
  err := false
  errCause := 0

/-- R89: `err <- 1; err_cause <- code`. -/
def errorEntry (r : Regs) (code : Nat) : Regs := { r with err := true, errCause := code }

/-- R80. -/
def clrerr (r : Regs) : Regs := { r with err := false, errCause := 0, count := 0, stopped := false }

/-- R60. -/
def byte (maxLen : Nat) (r : Regs) (b : Nat) : Regs :=
  if r.stopped then r
  else if r.count = 8 * maxLen then errorEntry r 2
  else if zeros b < 8 then { r with count := r.count + zeros b, stopped := true }
  else { r with count := r.count + zeros b }

/-- R48, the last branch: the opcode selects the command's rule. -/
def command (maxLen : Nat) (r : Regs) (w : Nat) : Regs :=
  match w / 4096 with
  | 1 => { r with count := 0, stopped := false }
  | 2 => byte maxLen r (w % 256)
  | 3 => { r with count := zeros (w % 256), stopped := decide (zeros (w % 256) < 8) }
  | 4 => { r with required := r.count }
  | 5 => { r with required := w % 4096 }
  | 6 => clrerr r
  | _ => r

/-- The pseudocode of R48, case by case in its order. -/
def step (maxLen : Nat) (r : Regs) (rst cmdValid : Bool) (w : Nat) : Regs :=
  if rst then resetRegs
  else if !cmdValid then r
  else if r.err then (if w = 0x6000 then clrerr r else r)
  else if ¬ Legal w then errorEntry r 1
  else command maxLen r w

end Sys2Proof.Spec

namespace Sys2Proof.Machine

/-- The registers of a state as numbers. -/
def State.regs (s : State) : Sys2Proof.Spec.Regs where
  count := s.count.toNat
  stopped := s.stopped
  required := s.required.toNat
  err := s.err
  errCause := s.errCause.code.toNat

end Sys2Proof.Machine
end

