-- ==== Sys2Proof/Certificates/Slice0/Obligations.lean ====
section
/-! DEFINITION. The statements for the provers. Each docstring names the rule of spec/ it formalises or rests on.
There is no memory (spec/20_memory.md R30), so no frame says anything of memory. -/

open Sys2Proof Sys2Proof.Machine

/-! ### Parameters -/

/-- R3: `COUNT_W = ceil(log2(COUNT_MAX + 1))`, the least width that holds every value `0..COUNT_MAX`; the rule's
three examples and its range 4 to 12. -/
def Obligations.CountWidthIsLeast : Prop :=
  (∀ m : Nat, Config.Admitted m →
    Config.countW m = Nat.clog 2 (Config.countMax m + 1) ∧
    (∀ w : Nat, Config.countW m ≤ w ↔ ∀ v : Nat, v ≤ Config.countMax m → v < 2 ^ w) ∧
    4 ≤ Config.countW m ∧ Config.countW m ≤ 12) ∧
  Config.countW 32 = 9 ∧ Config.countW 1 = 4 ∧ Config.countMax 511 = 4088 ∧ Config.countW 511 = 12

/-- R4: `REQ_NEVER` is 4095 and no count of an admitted machine meets it (R16 bounds the count). -/
def Obligations.NeverThresholdNeverPasses : Prop :=
  Config.reqNever.toNat = 4095 ∧
  (∀ m : Nat, Config.Admitted m → Config.countMax m ≤ 4088) ∧
  ∀ s : State, s.Inv → s.required = Config.reqNever → s.pass = false

/-- U15 and R1: a MAX_LEN outside 1..511 is no admitted configuration; the model refuses it by name. That the
refusal stands in the step is the model's choice (log 4). -/
def Obligations.UnadmittedParameterRefused : Prop :=
  ∀ s : State, s.maxLen = 0 ∨ 512 ≤ s.maxLen → step s = .refused (.maxLenNotAdmitted s.maxLen)

/-! ### Encoding -/

/-- R41 to R43: every command is read back from its word with every operand at every value. -/
def Obligations.DecodeOfEncode : Prop := ∀ i : Instr, decode (encode i) = .ok i

/-- R42, R43: the whole opcode map, both ways: which words spell which command, and no others. -/
def Obligations.OpcodeMapComplete : Prop :=
  ∀ (w : CmdWord) (i : Instr), decode w = .ok i ↔
    (i = .nop ∧ w.toNat = 0x0000) ∨
    (i = .start ∧ w.toNat = 0x1000) ∨
    (∃ b : Byte, i = .byte b ∧ w.toNat = 0x2000 + b.toNat) ∨
    (∃ b : Byte, i = .bytef b ∧ w.toNat = 0x3000 + b.toNat) ∨
    (i = .latch ∧ w.toNat = 0x4000) ∨
    (∃ n : Number, i = .setreq n ∧ w.toNat = 0x5000 + n.toNat) ∨
    (i = .clrerr ∧ w.toNat = 0x6000)

/-- R44: a word is one of the seven commands exactly when it is legal; 4612 words are and the other
60924 are not. -/
def Obligations.LegalWords : Prop :=
  (∀ w : CmdWord, (∃ i : Instr, decode w = .ok i) ↔ Spec.Legal w.toNat) ∧
  ((Finset.range 65536).filter (fun w : Nat => Spec.Legal w)).card = 4612 ∧
  ((Finset.range 65536).filter (fun w : Nat => ¬ Spec.Legal w)).card = 60924

/-- R45: a word with opcode 7 to 15 is illegal whatever its operand bits; presented while `err = 0` it raises
ILLEGAL_CMD and does nothing else. -/
def Obligations.ReservedOpcodesIllegal : Prop :=
  ∀ w : CmdWord, 7 ≤ w.toNat / 4096 →
    decode w = .error (.reservedOpcode (BitVec.ofNat 4 (w.toNat / 4096))) ∧ RaisesIllegalCmd w

/-- R46: a defined opcode with a nonzero reserved operand bit is illegal; presented while `err = 0` it raises
ILLEGAL_CMD and the command's effect does not happen. -/
def Obligations.ReservedBitsIllegal : Prop :=
  ∀ w : CmdWord,
    ((w.toNat / 4096 = 0 ∨ w.toNat / 4096 = 1 ∨ w.toNat / 4096 = 4 ∨ w.toNat / 4096 = 6) ∧ w.toNat % 4096 ≠ 0) ∨
    ((w.toNat / 4096 = 2 ∨ w.toNat / 4096 = 3) ∧ w.toNat / 256 % 16 ≠ 0) →
    decode w = .error (.reservedBits (BitVec.ofNat 4 (w.toNat / 4096))) ∧ RaisesIllegalCmd w

/-- R42, by words written out from its table; spec/95_test_vectors.md section 2.9. -/
def Obligations.WrittenWordsDecode : Prop :=
  decode 0b0000000000000000#16 = .ok .nop ∧
  decode 0b0001000000000000#16 = .ok .start ∧
  decode 0b0010000000001111#16 = .ok (.byte 0x0F#8) ∧
  decode 0b0011000000000001#16 = .ok (.bytef 0x01#8) ∧
  decode 0b0100000000000000#16 = .ok .latch ∧
  decode 0b0101000000001101#16 = .ok (.setreq 13#12) ∧
  decode 0b0101111111111111#16 = .ok (.setreq 4095#12) ∧
  decode 0b0110000000000000#16 = .ok .clrerr

/-! ### The step -/

/-- R48: a presented word that spells a command runs it, on the state whose remaining inputs are the later ones. -/
def Obligations.StepRunsDecodedCommand : Prop :=
  ∀ (s : State) (e : Inputs) (rest : List Inputs) (i : Instr),
    Config.Admitted s.maxLen → s.script = e :: rest → e.rst = false → e.cmdValid = true → decode e.cmd = .ok i →
    step s = exec i { s with script := rest }

/-- R48: in every state of the invariant (R16) and for every inputs, the step makes exactly the transition of the
rule's pseudocode over natural numbers, and takes one cycle of the host's inputs. -/
def Obligations.StepRefinesPseudocode : Prop :=
  ∀ (s : State) (e : Inputs) (rest : List Inputs), s.Inv → s.script = e :: rest →
    ∃ t : State, step s = .next t ∧ t.maxLen = s.maxLen ∧ t.script = rest ∧
      t.regs = Spec.step s.maxLen s.regs e.rst e.cmdValid e.cmd.toNat

/-- R48, R21, R110: the block takes inputs at every edge and never halts, in states no run reaches too; no step
writes MAX_LEN (log 3) and each uses up one cycle of the host's inputs (log 1). -/
def Obligations.EveryEdgeHasNextState : Prop :=
  ∀ s : State, Config.Admitted s.maxLen →
    ∃ t : State, step s = .next t ∧ t.maxLen = s.maxLen ∧ t.script = s.script.tail

/-- R47, R81: any number of idle cycles, whatever `cmd` carries, leaves the five registers unchanged, in the error
state too; an idle cycle is a NOP for the state; `lzb` still shows `cmd[7:0]`. -/
def Obligations.IdleCyclesChangeNothing : Prop :=
  (∀ (s : State) (ws : List CmdWord) (rest : List Inputs), Config.Admitted s.maxLen →
    s.script = driven (ws.map .idle) ++ rest → runs ws.length s = .next { s with script := rest }) ∧
  (∀ (s : State) (w : CmdWord) (rest : List Inputs), Config.Admitted s.maxLen →
    step { s with script := Line.inputs (.idle w) :: rest } = step { s with script := Line.inputs .nop :: rest }) ∧
  (∀ (s : State) (w : CmdWord),
    (s.outputs (Line.inputs (.idle w))).lzb.toNat = lzb (BitVec.ofNat 8 (w.toNat % 256)))

/-- The model's choice where the host's list of inputs ends: it idles (log 2; R81 lets a host do so). -/
def Obligations.ExhaustedScriptIdles : Prop :=
  ∀ s : State, Config.Admitted s.maxLen → s.script = [] → step s = .next s

/-- R23, R101: an edge with `rst = 1` leaves the reset state, whatever the state before it was and whatever
`cmd_valid` and `cmd` are; the outputs then are those of R23, and a BYTE may follow directly. -/
def Obligations.ResetFromAnyState : Prop :=
  ∀ (s : State) (v : Bool) (w : CmdWord) (rest : List Inputs), Config.Admitted s.maxLen →
    s.script = Line.inputs (.reset v w) :: rest →
    ∃ t : State, step s = .next t ∧ t.maxLen = s.maxLen ∧ t.script = rest ∧
      t.count = 0#12 ∧ t.stopped = false ∧ t.required = 4095#12 ∧ t.err = false ∧ t.errCause = .none ∧
      (∀ e : Inputs, (t.outputs e).pass = false ∧ (t.outputs e).count = 0#12 ∧ (t.outputs e).stopped = false ∧
        (t.outputs e).required = 4095#12 ∧ (t.outputs e).err = false ∧ (t.outputs e).errCause = 0#2) ∧
      ∀ b : Byte, ∃ u : State, exec (.byte b) t = .next u ∧ u.err = false ∧ u.count.toNat = lzb b

/-- R100: one RESET step is enough, and holding `rst = 1` for several edges leaves the same state. -/
def Obligations.ResetHeldSeveralEdges : Prop :=
  ∀ (s : State) (es rest : List Inputs), Config.Admitted s.maxLen → es ≠ [] → (∀ e ∈ es, e.rst = true) →
    s.script = es ++ rest → runs es.length s = .next (State.resetAt s.maxLen rest)

/-! ### Errors -/

/-- R86: an illegal word presented with `rst = 0`, `cmd_valid = 1`, `err = 0` makes the error entry and nothing
else; in an idle cycle, in a RESET cycle and in the error state it raises nothing. -/
def Obligations.IllegalWordEntersError : Prop :=
  ∀ (s : State) (w : CmdWord) (rest : List Inputs), Config.Admitted s.maxLen → ¬ Spec.Legal w.toNat →
    (s.err = false → s.script = .command w :: rest →
      step s = .next { s with err := true, errCause := .illegalCmd, script := rest }) ∧
    (s.script = Line.inputs (.idle w) :: rest → step s = .next { s with script := rest }) ∧
    (∀ v : Bool, s.script = Line.inputs (.reset v w) :: rest → step s = .next (State.resetAt s.maxLen rest)) ∧
    (s.err = true → s.script = .command w :: rest → step s = .next { s with script := rest })

/-- R87: BYTE on a full accumulator that has not stopped makes the error entry, whatever the byte, and no other
command raises OVERLONG, nor does BYTE in any other case. -/
def Obligations.OverlongOnlyFromByte : Prop :=
  (∀ (s : State) (b : Byte), s.err = false → s.stopped = false → s.count.toNat = 8 * s.maxLen →
    exec (.byte b) s = .next { s with err := true, errCause := .overlong }) ∧
  (∀ (s t : State) (i : Instr), s.err = false → exec i s = .next t → t.err = true →
    t.errCause = .overlong ∧ s.stopped = false ∧ s.count.toNat = 8 * s.maxLen ∧ ∃ b : Byte, i = .byte b)

/-- R85 to R89: an edge raises exactly the errors of the table, each with its code, and the error entry leaves
`count`, `stopped` and `required` as they were. -/
def Obligations.ErrorsRaisedExactly : Prop :=
  ∀ (s t : State) (e : Inputs) (rest : List Inputs), s.Inv → s.err = false → s.script = e :: rest → step s = .next t →
    (t.err = true ∧ t.errCause.code = 1#2 ↔ e.rst = false ∧ e.cmdValid = true ∧ ¬ Spec.Legal e.cmd.toNat) ∧
    (t.err = true ∧ t.errCause.code = 2#2 ↔
      e.rst = false ∧ e.cmdValid = true ∧ e.cmd.toNat / 256 = 0x20 ∧ s.stopped = false ∧ s.count.toNat = 8 * s.maxLen) ∧
    (t.err = true → t.errCause.code = 1#2 ∨ t.errCause.code = 2#2) ∧
    (t.err = true → t.count = s.count ∧ t.stopped = s.stopped ∧ t.required = s.required)

/-- R88: on a full accumulator a BYTE word with a reserved bit set raises ILLEGAL_CMD, not OVERLONG. -/
def Obligations.IllegalBeatsOverlong : Prop :=
  ∀ (s : State) (w : CmdWord) (rest : List Inputs), Config.Admitted s.maxLen → s.err = false → s.stopped = false →
    s.count.toNat = 8 * s.maxLen → w.toNat / 4096 = 2 → w.toNat / 256 % 16 ≠ 0 → s.script = .command w :: rest →
    step s = .next { s with err := true, errCause := .illegalCmd, script := rest }

/-- R90: in the error state any number of edges with `rst = 0` and no legal CLRERR word leave all five registers
unchanged; `pass` is 0 and the other outputs show the frozen registers. -/
def Obligations.ErrorStateFrozen : Prop :=
  ∀ (s : State) (es rest : List Inputs), Config.Admitted s.maxLen → s.err = true →
    (∀ e ∈ es, e.rst = false ∧ ¬ (e.cmdValid = true ∧ e.cmd = 0x6000#16)) → s.script = es ++ rest →
    runs es.length s = .next { s with script := rest } ∧
    ∀ e : Inputs, (s.outputs e).pass = false ∧ (s.outputs e).count = s.count ∧
      (s.outputs e).stopped = s.stopped ∧ (s.outputs e).required = s.required

/-- R92: the two exits of the error state, and no other; while it lasts the first cause is kept. -/
def Obligations.ErrorStateExits : Prop :=
  ∀ (s : State) (e : Inputs) (rest : List Inputs), Config.Admitted s.maxLen → s.err = true → s.script = e :: rest →
    ∃ t : State, step s = .next t ∧
      (e.rst = true → t = State.resetAt s.maxLen rest) ∧
      (e.rst = false → e.cmdValid = true → e.cmd = 0x6000#16 →
        t = { s with count := 0#12, stopped := false, err := false, errCause := .none, script := rest }) ∧
      (t.err = false → e.rst = true ∨ (e.cmdValid = true ∧ e.cmd = 0x6000#16)) ∧
      (t.err = true → t.errCause = s.errCause)

/-- R93: what is not an error: every command but a BYTE that finds the accumulator full and not stopped. -/
def Obligations.NoOtherErrors : Prop :=
  ∀ (s : State) (i : Instr), s.Inv → s.err = false →
    (∀ b : Byte, i = .byte b → s.stopped = true ∨ s.count.toNat ≠ 8 * s.maxLen) →
    ∃ t : State, exec i s = .next t ∧ t.err = false ∧ t.errCause = .none

/-! ### The commands -/

/-- R58: NOP's encoding; it writes no register, with `err` 0 or 1, as an idle cycle does; a NOP opcode with a nonzero
operand is illegal and raises ILLEGAL_CMD. -/
def Obligations.NopChangesNothing : Prop :=
  encode .nop = 0x0000#16 ∧ decode 0x0000#16 = .ok .nop ∧
  (∀ w : CmdWord, w.toNat / 4096 = 0 → w ≠ 0x0000#16 →
    decode w = .error (.reservedBits 0#4) ∧ RaisesIllegalCmd w) ∧
  (∀ s : State, exec .nop s = .next s) ∧
  ∀ (s : State) (w : CmdWord) (rest : List Inputs), Config.Admitted s.maxLen →
    step { s with script := Line.inputs .nop :: rest } = step { s with script := Line.inputs (.idle w) :: rest }

/-- R59: START's encoding and effect: `count <- 0; stopped <- 0` with `err = 0`, ignored with `err = 1`; afterwards
`pass = 1` exactly when `required = 0`. -/
def Obligations.StartBeginsSequence : Prop :=
  encode .start = 0x1000#16 ∧ decode 0x1000#16 = .ok .start ∧
  (∀ w : CmdWord, w.toNat / 4096 = 1 → w ≠ 0x1000#16 →
    decode w = .error (.reservedBits 1#4) ∧ RaisesIllegalCmd w) ∧
  (∀ s : State, s.err = true → exec .start s = .next s) ∧
  ∀ s : State, s.err = false →
    ∃ t : State, exec .start s = .next t ∧ t = { s with count := 0#12, stopped := false } ∧
      (t.pass = true ↔ s.required = 0#12)

/-- R60: BYTE's encoding and its three cases; ignored with `err = 1`. -/
def Obligations.ByteHasThreeCases : Prop :=
  (∀ b : Byte, (encode (.byte b)).toNat = 0x2000 + b.toNat ∧ decode (encode (.byte b)) = .ok (.byte b)) ∧
  (∀ w : CmdWord, w.toNat / 4096 = 2 → w.toNat / 256 % 16 ≠ 0 →
    decode w = .error (.reservedBits 2#4) ∧ RaisesIllegalCmd w) ∧
  (∀ (s : State) (b : Byte), s.err = true → exec (.byte b) s = .next s) ∧
  ∀ (s : State) (b : Byte), s.Inv → s.err = false →
    exec (.byte b) s = .next
      (if s.stopped = true then s
       else if s.count.toNat = 8 * s.maxLen then { s with err := true, errCause := .overlong }
       else if b = 0x00#8 then { s with count := BitVec.ofNat 12 (s.count.toNat + 8) }
       else { s with count := BitVec.ofNat 12 (s.count.toNat + lzb b), stopped := true })

/-- R65: where BYTE adds, the sum is at most `COUNT_MAX`, fits `COUNT_W` bits, and is the same computed in natural
numbers and in `COUNT_W`-bit vectors. -/
def Obligations.ByteSumNeverWraps : Prop :=
  ∀ (s : State) (b : Byte), s.Inv → s.err = false → s.stopped = false → s.count.toNat ≠ Config.countMax s.maxLen →
    s.count.toNat % 8 = 0 ∧ s.count.toNat ≤ Config.countMax s.maxLen - 8 ∧
    s.count.toNat + lzb b ≤ Config.countMax s.maxLen ∧ Config.countMax s.maxLen < 2 ^ Config.countW s.maxLen ∧
    ∃ t : State, exec (.byte b) s = .next t ∧ t.count.toNat = s.count.toNat + lzb b ∧
      t.count.toNat = (BitVec.ofNat (Config.countW s.maxLen) s.count.toNat +
        BitVec.ofNat (Config.countW s.maxLen) (lzb b)).toNat

/-- R61: BYTEF's encoding and effect; it is START followed by BYTE, never raises an error, and is ignored with
`err = 1`; at MAX_LEN = 1 `BYTEF 0x00` fills the accumulator and a following BYTE raises OVERLONG. -/
def Obligations.BytefIsStartThenByte : Prop :=
  (∀ b : Byte, (encode (.bytef b)).toNat = 0x3000 + b.toNat ∧ decode (encode (.bytef b)) = .ok (.bytef b)) ∧
  (∀ w : CmdWord, w.toNat / 4096 = 3 → w.toNat / 256 % 16 ≠ 0 →
    decode w = .error (.reservedBits 3#4) ∧ RaisesIllegalCmd w) ∧
  (∀ (s : State) (b : Byte), s.err = true → exec (.bytef b) s = .next s) ∧
  (∀ (s : State) (b : Byte), Config.Admitted s.maxLen → s.err = false →
    exec (.bytef b) s = .next { s with count := BitVec.ofNat 12 (lzb b), stopped := decide (b ≠ 0x00#8) } ∧
    ∃ u : State, exec .start s = .next u ∧ exec (.byte b) u = exec (.bytef b) s) ∧
  (∀ (s : State) (b : Byte), s.maxLen = 1 → s.err = false →
    ∃ u : State, exec (.bytef 0x00#8) s = .next u ∧ u.count.toNat = Config.countMax 1 ∧
      exec (.byte b) u = .next { u with err := true, errCause := .overlong })

/-- R70: LATCH's encoding and effect: `required <- count`, ignored with `err = 1`; afterwards `pass = 1`, and the
value stored is at most `COUNT_MAX`, never `REQ_NEVER`. -/
def Obligations.LatchStoresCount : Prop :=
  encode .latch = 0x4000#16 ∧ decode 0x4000#16 = .ok .latch ∧
  (∀ w : CmdWord, w.toNat / 4096 = 4 → w ≠ 0x4000#16 →
    decode w = .error (.reservedBits 4#4) ∧ RaisesIllegalCmd w) ∧
  (∀ s : State, s.err = true → exec .latch s = .next s) ∧
  ∀ s : State, s.err = false →
    ∃ t : State, exec .latch s = .next t ∧ t = { s with required := s.count } ∧ t.pass = true ∧
      (s.Inv → t.required.toNat ≤ Config.countMax s.maxLen ∧ t.required ≠ Config.reqNever)

/-- R71: SETREQ's encoding, every word `0x5000..0x5FFF` legal, and its effect `required <- n`, ignored with
`err = 1`; 0 makes every sequence pass, a number above `COUNT_MAX` (4095 is one) none. -/
def Obligations.SetreqLoadsNumber : Prop :=
  (∀ n : Number, (encode (.setreq n)).toNat = 0x5000 + n.toNat ∧ decode (encode (.setreq n)) = .ok (.setreq n)) ∧
  (∀ w : CmdWord, w.toNat / 4096 = 5 → decode w = .ok (.setreq (BitVec.ofNat 12 (w.toNat % 4096)))) ∧
  (∀ (s : State) (n : Number), s.err = true → exec (.setreq n) s = .next s) ∧
  ∀ (s : State) (n : Number), s.err = false →
    ∃ t : State, exec (.setreq n) s = .next t ∧ t = { s with required := n } ∧
      (n = 0#12 → t.pass = true) ∧ (s.Inv → Config.countMax s.maxLen < n.toNat → t.pass = false) ∧
      (s.Inv → n = 4095#12 → t.pass = false)

/-- R80: CLRERR's encoding and effect, for either value of `err`; with `err = 0` it is START; afterwards `pass = 1`
exactly when `required = 0`. -/
def Obligations.ClrerrLeavesErrorState : Prop :=
  encode .clrerr = 0x6000#16 ∧ decode 0x6000#16 = .ok .clrerr ∧
  (∀ w : CmdWord, w.toNat / 4096 = 6 → w ≠ 0x6000#16 →
    decode w = .error (.reservedBits 6#4) ∧ RaisesIllegalCmd w) ∧
  (∀ (s : State) (w : CmdWord) (rest : List Inputs), Config.Admitted s.maxLen → w.toNat / 4096 = 6 → w ≠ 0x6000#16 →
    s.err = true → s.script = .command w :: rest → step s = .next { s with script := rest }) ∧
  (∀ s : State, s.err = false → s.errCause = .none → exec .clrerr s = exec .start s) ∧
  ∀ s : State, ∃ t : State, exec .clrerr s = .next t ∧
    t = { s with count := 0#12, stopped := false, err := false, errCause := .none } ∧
    (t.pass = true ↔ s.required = 0#12)

/-! ### Frames -/

/-- R13, R58 to R61: NOP, START, BYTE and BYTEF never write `required`; NOP, START and BYTEF never write `err` or
`err_cause`; BYTE writes them only without writing `count` and `stopped`; NOP writes nothing. MAX_LEN and the host's
later inputs stay as they are. -/
def Obligations.CountingCommandsFrame : Prop :=
  (∀ (s t : State) (i : Instr),
    (i = .nop ∨ i = .start ∨ (∃ b : Byte, i = .byte b) ∨ (∃ b : Byte, i = .bytef b)) → exec i s = .next t →
    t.required = s.required ∧ t.maxLen = s.maxLen ∧ t.script = s.script) ∧
  (∀ (s t : State) (i : Instr), (i = .nop ∨ i = .start ∨ (∃ b : Byte, i = .bytef b)) → exec i s = .next t →
    t.err = s.err ∧ t.errCause = s.errCause) ∧
  (∀ (s t : State) (b : Byte), exec (.byte b) s = .next t →
    (t.err = s.err ∧ t.errCause = s.errCause) ∨ (t.count = s.count ∧ t.stopped = s.stopped)) ∧
  (∀ s t : State, exec .nop s = .next t → t.count = s.count ∧ t.stopped = s.stopped)

/-- R70, R71: LATCH and SETREQ write `required` only. -/
def Obligations.ThresholdCommandsFrame : Prop :=
  ∀ (s t : State) (i : Instr), (i = .latch ∨ ∃ n : Number, i = .setreq n) → exec i s = .next t →
    t.count = s.count ∧ t.stopped = s.stopped ∧ t.err = s.err ∧ t.errCause = s.errCause ∧
    t.maxLen = s.maxLen ∧ t.script = s.script

/-- R80: CLRERR does not write `required`. -/
def Obligations.ClrerrFrame : Prop :=
  ∀ s t : State, exec .clrerr s = .next t → t.required = s.required ∧ t.maxLen = s.maxLen ∧ t.script = s.script

/-! ### Rules about the whole machine -/

/-- R13: only RESET, LATCH and SETREQ write `required`, the latter two only with `err = 0`. -/
def Obligations.OnlyThreeWritersOfRequired : Prop :=
  ∀ (s t : State) (e : Inputs) (rest : List Inputs), s.script = e :: rest → step s = .next t →
    t.required ≠ s.required →
    (e.rst = true ∧ t.required = 4095#12) ∨
    (e.rst = false ∧ e.cmdValid = true ∧ s.err = false ∧
      ((e.cmd = 0x4000#16 ∧ t.required = s.count) ∨
       (e.cmd.toNat / 4096 = 5 ∧ t.required.toNat = e.cmd.toNat % 4096)))

/-- R11: no command decreases `count` but at a sequence start, which sets it to 0 (BYTEF then adds its byte's
count). The invariant rules out a sum that would wrap. -/
def Obligations.CountFallsOnlyAtSequenceStart : Prop :=
  ∀ (s t : State) (e : Inputs) (rest : List Inputs), s.Inv → s.script = e :: rest → step s = .next t →
    t.count.toNat < s.count.toNat →
    (t.count = 0#12 ∧ (e.rst = true ∨
      (e.cmdValid = true ∧ (e.cmd = 0x6000#16 ∨ (s.err = false ∧ e.cmd = 0x1000#16))))) ∨
    (e.rst = false ∧ e.cmdValid = true ∧ s.err = false ∧ e.cmd.toNat / 256 = 0x30 ∧
      t.count.toNat = lzb (BitVec.ofNat 8 e.cmd.toNat))

/-- R12, R19: `stopped` is set only by a BYTE or BYTEF of a byte that is not all zero, and cleared only by RESET,
START, BYTEF and CLRERR. -/
def Obligations.StoppedFlagWriters : Prop :=
  ∀ (s t : State) (e : Inputs) (rest : List Inputs), s.script = e :: rest → step s = .next t →
    (s.stopped = false → t.stopped = true →
      e.rst = false ∧ e.cmdValid = true ∧ s.err = false ∧ (e.cmd.toNat / 256 = 0x20 ∨ e.cmd.toNat / 256 = 0x30) ∧
      e.cmd.toNat % 256 ≠ 0) ∧
    (s.stopped = true → t.stopped = false →
      e.rst = true ∨ (e.cmdValid = true ∧ (e.cmd = 0x6000#16 ∨
        (s.err = false ∧ (e.cmd = 0x1000#16 ∨ e.cmd = 0x3000#16)))))

/-- R10, R20: nothing but the five registers (and the parameter) influences the next registers or any output: two
blocks with equal registers and equal inputs stay equal, whatever the host does later. -/
def Obligations.NoHiddenState : Prop :=
  ∀ (s₁ s₂ : State) (e : Inputs) (rest₁ rest₂ : List Inputs),
    Config.Admitted s₁.maxLen → s₁.maxLen = s₂.maxLen → s₁.regs = s₂.regs →
    s₁.script = e :: rest₁ → s₂.script = e :: rest₂ →
    s₁.outputs e = s₂.outputs e ∧
    ∃ t₁ t₂ : State, step s₁ = .next t₁ ∧ step s₂ = .next t₂ ∧ t₁.regs = t₂.regs ∧
      ∀ e' : Inputs, t₁.outputs e' = t₂.outputs e'

/-- R106: of any two commands presented on consecutive edges, in any state, the second runs on the state the first
leaves; a command directly after RESET runs on the reset state; `pass` directly after SETREQ shows the new threshold.
The rule's three pairs beside it: LATCH directly after BYTE stores the count with that byte (a byte after the stop
adds nothing), BYTE directly after START adds to zero, BYTEF directly after BYTE starts cleanly. -/
def Obligations.BackToBackCommands : Prop :=
  (∀ (s : State) (w₁ w₂ : CmdWord) (i j : Instr) (rest : List Inputs), Config.Admitted s.maxLen →
    decode w₁ = .ok i → decode w₂ = .ok j → s.script = .command w₁ :: .command w₂ :: rest →
    ∃ u t : State, exec i { s with script := rest } = .next u ∧ exec j u = .next t ∧ runs 2 s = .next t) ∧
  (∀ (s : State) (v : Bool) (w₁ w₂ : CmdWord) (j : Instr) (rest : List Inputs), Config.Admitted s.maxLen →
    decode w₂ = .ok j → s.script = Line.inputs (.reset v w₁) :: .command w₂ :: rest →
    runs 2 s = exec j (State.resetAt s.maxLen rest)) ∧
  (∀ (s : State) (n : Number) (rest : List Inputs), Config.Admitted s.maxLen → s.err = false →
    s.script = .command (encode (.setreq n)) :: rest →
    ∃ t : State, step s = .next t ∧ ∀ e : Inputs, (t.outputs e).pass = true ↔ n.toNat ≤ s.count.toNat) ∧
  ∀ (s : State) (b c : Byte) (rest : List Inputs), s.Inv → s.err = false →
    ((s.stopped = true ∨ s.count.toNat ≠ Config.countMax s.maxLen) →
      s.script = driven [.byte b.toNat, .latch] ++ rest →
      ∃ t : State, runs 2 s = .next t ∧ t.count = t.required ∧
        t.required.toNat = if s.stopped = true then s.count.toNat else s.count.toNat + lzb b) ∧
    (s.script = driven [.start, .byte b.toNat] ++ rest →
      ∃ t : State, runs 2 s = .next t ∧ t.count.toNat = lzb b ∧ t.err = false) ∧
    ((s.stopped = true ∨ s.count.toNat ≠ Config.countMax s.maxLen) →
      s.script = driven [.byte b.toNat, .bytef c.toNat] ++ rest →
      ∃ t : State, runs 2 s = .next t ∧ t.count.toNat = lzb c ∧ t.stopped = decide (c ≠ 0x00#8))

/-! ### Outputs and the comparator -/

/-- R22: the seven outputs; all but `lzb` depend on registers only, `lzb` only on `cmd[7:0]`. -/
def Obligations.OutputsOfACycle : Prop :=
  (∀ (s : State) (e : Inputs),
    (s.outputs e).count = s.count ∧ (s.outputs e).stopped = s.stopped ∧ (s.outputs e).required = s.required ∧
    (s.outputs e).err = s.err ∧ (s.outputs e).errCause = s.errCause.code ∧
    ((s.outputs e).pass = true ↔ s.err = false ∧ s.required.toNat ≤ s.count.toNat) ∧
    (s.outputs e).lzb.toNat = lzb (BitVec.ofNat 8 e.cmd.toNat)) ∧
  (∀ (s : State) (e e' : Inputs), { s.outputs e with lzb := (s.outputs e').lzb } = s.outputs e') ∧
  (∀ (s s' : State) (e e' : Inputs), e.cmd.toNat % 256 = e'.cmd.toNat % 256 →
    (s.outputs e).lzb = (s'.outputs e').lzb)

/-- R72, R73: the comparator: unsigned `count >= required` with `err = 0`; ties pass, one less fails, one more
passes; 0 whenever `err = 1`. -/
def Obligations.PassIsThresholdTest : Prop :=
  ∀ s : State,
    (s.pass = true ↔ s.err = false ∧ s.count.toNat ≥ s.required.toNat) ∧
    (s.err = true → s.pass = false) ∧
    (s.err = false → s.count = s.required → s.pass = true) ∧
    (s.err = false → s.count.toNat + 1 = s.required.toNat → s.pass = false) ∧
    (s.err = false → s.count.toNat = s.required.toNat + 1 → s.pass = true)

/-- R75: the host's mapping of any integer onto SETREQ's operand gives the verdict of that integer; a threshold from
LATCH is at most `COUNT_MAX`. -/
def Obligations.IntegerThresholdMapping : Prop :=
  (∀ (s : State) (r : Int) (n : Number), s.Inv → s.err = false →
    (r ≤ 0 → n = 0#12) → (0 ≤ r → r ≤ 4095 → (n.toNat : Int) = r) → (4095 < r → n = 4095#12) →
    ∃ t : State, exec (.setreq n) s = .next t ∧ (t.pass = true ↔ (t.count.toNat : Int) ≥ r)) ∧
  ∀ s : State, s.Inv → s.err = false →
    ∃ t : State, exec .latch s = .next t ∧ t.required.toNat ≤ Config.countMax s.maxLen

/-! ### The counting functions -/

/-- R55, R56: `lzb` counts the zero bits before the first 1 bit from bit 7 down; its table by ranges; 8 exactly for
the zero byte; `7 - floor(log2 b)` for the others. -/
def Obligations.LzbTable : Prop :=
  ∀ b : Byte,
    lzb b = leadingZeroBits (bitsOf b) ∧
    (0x80 ≤ b.toNat → lzb b = 0) ∧
    (0x40 ≤ b.toNat → b.toNat ≤ 0x7F → lzb b = 1) ∧
    (0x20 ≤ b.toNat → b.toNat ≤ 0x3F → lzb b = 2) ∧
    (0x10 ≤ b.toNat → b.toNat ≤ 0x1F → lzb b = 3) ∧
    (0x08 ≤ b.toNat → b.toNat ≤ 0x0F → lzb b = 4) ∧
    (0x04 ≤ b.toNat → b.toNat ≤ 0x07 → lzb b = 5) ∧
    (0x02 ≤ b.toNat → b.toNat ≤ 0x03 → lzb b = 6) ∧
    (b.toNat = 0x01 → lzb b = 7) ∧
    (lzb b = 8 ↔ b = 0x00#8) ∧ (lzb b < 8 ↔ b ≠ 0x00#8) ∧
    (b ≠ 0x00#8 → lzb b = 7 - Nat.log2 b.toNat)

/-- R63: `lzs` is the plain leading-zero count of the bit string, byte 0 first, bit 7 first. -/
def Obligations.LzsIsBitStringCount : Prop :=
  ∀ bs : List Byte, lzs bs = leadingZeroBits (bs.flatMap bitsOf) ∧
    (true ∉ bs.flatMap bitsOf → lzs bs = 8 * bs.length)

/-- R64 (a) to (f), with (c) in hardware terms. -/
def Obligations.LzsLaws : Prop :=
  lzs [] = 0 ∧
  (∀ l : Nat, lzs (List.replicate l 0x00#8) = 8 * l) ∧
  (∀ bs : List Byte, lzs (0x00#8 :: bs) = 8 + lzs bs) ∧
  (∀ bs : List Byte, lzs bs ≤ 8 * bs.length) ∧
  (∀ bs cs : List Byte, (∃ b ∈ bs, b ≠ 0x00#8) → lzs (bs ++ cs) = lzs bs) ∧
  (∀ b : Byte, lzb b ≤ 8) ∧
  (∀ s : State, s.Inv → s.err = false → s.stopped = false → s.count.toNat < Config.countMax s.maxLen →
    ∃ t : State, exec (.byte 0x00#8) s = .next t ∧ t.count.toNat = s.count.toNat + 8)

/-- R62: a sequence start (RESET, START, CLRERR, or BYTEF with the first byte) and then BYTE commands, with idle
cycles, NOP, LATCH and SETREQ anywhere, compute `lzs` of the bytes fed, or raise OVERLONG exactly when more than
MAX_LEN bytes begin with MAX_LEN zero bytes. Every prefix of such lines is one too. -/
def Obligations.SequenceComputesLzs : Prop :=
  ∀ (s : State) (first : Line) (bs₀ : List Byte) (ls : List Line) (rest : List Inputs),
    s.Inv → s.err = false → first.begins = some bs₀ → (∀ l ∈ ls, l.inSequence = true) →
    s.script = driven (first :: ls) ++ rest →
    ∃ t : State, runs (1 + ls.length) s = .next t ∧ t.script = rest ∧ t.maxLen = s.maxLen ∧
      (Fits s.maxLen (bs₀ ++ fed ls) →
        t.err = false ∧ t.count.toNat = lzs (bs₀ ++ fed ls) ∧
        (t.stopped = true ↔ ∃ b ∈ bs₀ ++ fed ls, b ≠ 0x00#8)) ∧
      (s.maxLen < (bs₀ ++ fed ls).length → s.maxLen ≤ leadingZeroBytes (bs₀ ++ fed ls) →
        t.err = true ∧ t.errCause = .overlong ∧ t.count.toNat = Config.countMax s.maxLen ∧ t.stopped = false)

/-- R74 (a): `SEQ bs`, and `SEQF bs`, leave `leadingZerosInSequence(bs)` in `count`, and `required` as it was. -/
def Obligations.SeqComputesSequenceCount : Prop :=
  ∀ (s : State) (bs : List Byte) (p : Pseudo) (rest : List Inputs), s.Inv → s.err = false → Fits s.maxLen bs →
    (p = .seq (operands bs) ∨ p = .check (operands bs) ∨ (bs ≠ [] ∧ p = .seqf (operands bs))) →
    s.script = driven p.lines ++ rest →
    ∃ t : State, runs p.lines.length s = .next t ∧ t.err = false ∧ t.count.toNat = lzs bs ∧
      t.required = s.required ∧ t.script = rest

/-- R74 (b) to (d), R77: `LOADDIFF enc`, then `SEQ d`: `required` holds the count of the encoding and `pass` is
`lzs(d) >= lzs(enc)`, whatever the two lengths; with `SETREQ r` in the place of `LOADDIFF` it is `lzs(d) >= r`. -/
def Obligations.VerdictOfDigest : Prop :=
  ∀ (s : State) (enc d : List Byte) (rest : List Inputs), s.Inv → s.err = false → Fits s.maxLen d →
    (Fits s.maxLen enc →
      s.script = driven ((Pseudo.loaddiff (operands enc)).lines ++ (Pseudo.seq (operands d)).lines) ++ rest →
      ∃ t : State,
        runs ((Pseudo.loaddiff (operands enc)).lines ++ (Pseudo.seq (operands d)).lines).length s = .next t ∧
        t.err = false ∧ t.required.toNat = lzs enc ∧ (t.pass = true ↔ lzs d ≥ lzs enc)) ∧
    (∀ r : Nat, r ≤ 4095 → s.script = driven (.setreq r :: (Pseudo.seq (operands d)).lines) ++ rest →
      ∃ t : State, runs (1 + (Pseudo.seq (operands d)).lines.length) s = .next t ∧
        t.err = false ∧ t.required.toNat = r ∧ (t.pass = true ↔ lzs d ≥ r))

/-- R50: `SEQF` leaves the same state as `SEQ` of the same bytes, over-long sequences included. -/
def Obligations.SeqfLeavesSameState : Prop :=
  ∀ (s : State) (bs : List Byte) (rest : List Inputs), s.Inv → s.err = false → bs ≠ [] →
    ∃ t : State,
      runs (Pseudo.seq (operands bs)).lines.length { s with script := driven (Pseudo.seq (operands bs)).lines ++ rest }
        = .next t ∧
      runs (Pseudo.seqf (operands bs)).lines.length { s with script := driven (Pseudo.seqf (operands bs)).lines ++ rest }
        = .next t

/-- R76: within a sequence, with `required` not rewritten and no error raised, `count` never decreases and a `pass`
of 1 stays; a raised error forces `pass` to 0. -/
def Obligations.PassMonotoneInSequence : Prop :=
  ∀ (s : State) (ls : List Line) (rest : List Inputs), s.Inv → s.err = false →
    (∀ l ∈ ls, l.keepsThreshold = true) → s.script = driven ls ++ rest →
    ∃ t : State, runs ls.length s = .next t ∧ t.required = s.required ∧
      (t.err = false → s.count.toNat ≤ t.count.toNat ∧ (s.pass = true → t.pass = true)) ∧
      (t.err = true → t.pass = false ∧ t.errCause = .overlong)

/-- R108, R76, R60: after the stop any further bytes of the sequence change no register, so the verdict is final. -/
def Obligations.EarlyStopKeepsVerdict : Prop :=
  ∀ (s : State) (ls : List Line) (rest : List Inputs), Config.Admitted s.maxLen → s.err = false → s.stopped = true →
    (∀ l ∈ ls, l.keepsThreshold = true) → s.script = driven ls ++ rest →
    runs ls.length s = .next { s with script := rest }

/-- R78: only the position of the first 1 bit of an encoding matters: any two fitting encodings with the same number
of zero bits before it give the same required count, that number, whatever the lengths and the later bits are; with
example S14 of spec/95_test_vectors.md, first bytes `0x0F` and `0x08`, which give 4. -/
def Obligations.OnlyFirstOneBitMatters : Prop :=
  (∀ (s₁ s₂ : State) (enc₁ enc₂ : List Byte) (rest₁ rest₂ : List Inputs),
    s₁.Inv → s₂.Inv → s₁.err = false → s₂.err = false → Fits s₁.maxLen enc₁ → Fits s₂.maxLen enc₂ →
    leadingZeroBits (enc₁.flatMap bitsOf) = leadingZeroBits (enc₂.flatMap bitsOf) →
    s₁.script = driven (Pseudo.loaddiff (operands enc₁)).lines ++ rest₁ →
    s₂.script = driven (Pseudo.loaddiff (operands enc₂)).lines ++ rest₂ →
    ∃ t₁ t₂ : State, runs (Pseudo.loaddiff (operands enc₁)).lines.length s₁ = .next t₁ ∧
      runs (Pseudo.loaddiff (operands enc₂)).lines.length s₂ = .next t₂ ∧ t₁.err = false ∧ t₂.err = false ∧
      t₁.required = t₂.required ∧ t₁.required.toNat = leadingZeroBits (enc₁.flatMap bitsOf)) ∧
  ∀ (s : State) (tail : List Byte) (b : Byte) (rest : List Inputs), s.Inv → s.err = false →
    (b = 0x0F#8 ∨ b = 0x08#8) → s.script = driven (Pseudo.loaddiff (operands (b :: tail))).lines ++ rest →
    ∃ t : State, runs (Pseudo.loaddiff (operands (b :: tail))).lines.length s = .next t ∧ t.err = false ∧
      t.required = 4#12

/-! ### Invariants -/

/-- R16 at RESET, for every admitted MAX_LEN and every behaviour of the host to come. -/
def Obligations.ResetStateHasInvariant : Prop :=
  State.reset = State.resetAt 32 [] ∧
  ∀ (m : Nat) (script : List Inputs), Config.Admitted m → (State.resetAt m script).Inv

/-- R16: every step keeps the invariants. -/
def Obligations.StepKeepsInvariant : Prop :=
  ∀ s t : State, s.Inv → step s = .next t → t.Inv

/-- R16: in every state reached from a RESET by any inputs, the five invariants of the rule's list. -/
def Obligations.ReachedStatesObeyTheList : Prop :=
  ∀ (m : Nat) (script : List Inputs) (k : Nat), Config.Admitted m →
    ∃ t : State, runs k (State.resetAt m script) = .next t ∧ t.maxLen = m ∧
      t.count.toNat ≤ Config.countMax m ∧
      (t.stopped = false → ∃ z : Nat, z ≤ m ∧ t.count.toNat = 8 * z) ∧
      (t.stopped = true → ∃ z j : Nat, z ≤ m - 1 ∧ j ≤ 7 ∧ t.count.toNat = 8 * z + j) ∧
      (t.err = true ↔ t.errCause.code = 1#2 ∨ t.errCause.code = 2#2) ∧ t.errCause.code ≠ 3#2 ∧
      (t.errCause.code = 2#2 → t.stopped = false ∧ t.count.toNat = Config.countMax m)

/-- R11, R3: the register holds `COUNT_W` bits: a count that fits them still fits after any step, in states no run
reaches too (that the container's other bits stay zero is the model's reading, log 5). -/
def Obligations.CountStaysInItsWidth : Prop :=
  ∀ s t : State, s.count.toNat < 2 ^ Config.countW s.maxLen → step s = .next t →
    t.count.toNat < 2 ^ Config.countW t.maxLen
end

