-- ==== Sys2Proof/Laws/Config.lean ====
section
/-! SUPPORT. What an admitted MAX_LEN says of COUNT_MAX and COUNT_W (spec/00_scope.md R1 to R4). -/
namespace Sys2Proof

theorem Config.countMax_eq (m : Nat) : Config.countMax m = 8 * m := rfl

theorem Config.countMax_pos {m : Nat} (h : Config.Admitted m) : Config.countMax m ≠ 0 := by
  unfold Config.countMax; omega

/-- The register holds every value up to `COUNT_MAX`. -/
theorem Config.countMax_lt_two_pow (m : Nat) : Config.countMax m < 2 ^ Config.countW m :=
  Nat.lt_log2_self

/-- `COUNT_W` is at most the 12 bits of the container. -/
theorem Config.countW_le {m : Nat} (h : Config.Admitted m) : Config.countW m ≤ 12 := by
  have hlt : Nat.log2 (Config.countMax m) < 12 :=
    (Nat.log2_lt (Config.countMax_pos h)).2 (by unfold Config.countMax; omega)
  unfold Config.countW; omega

end Sys2Proof
end

