-- ==== Sys2Proof/Laws/Decode.lean ====
section
/-! SUPPORT. The fields of a command word as numbers (spec/30_encoding.md R40, R41, R43). -/
namespace Sys2Proof

theorem opcodeOf_toNat (w : CmdWord) : (opcodeOf w).toNat = w.toNat / 4096 := by
  have := w.isLt
  simp only [opcodeOf, BitVec.extractLsb'_toNat, Nat.shiftRight_eq_div_pow]; omega

theorem numberOf_toNat (w : CmdWord) : (numberOf w).toNat = w.toNat % 4096 := by
  simp only [numberOf, BitVec.extractLsb'_toNat, Nat.shiftRight_eq_div_pow]; omega

theorem upperOf_toNat (w : CmdWord) : (upperOf w).toNat = w.toNat / 256 % 16 := by
  simp only [upperOf, BitVec.extractLsb'_toNat, Nat.shiftRight_eq_div_pow]

theorem byteOf_toNat (w : CmdWord) : (byteOf w).toNat = w.toNat % 256 := by
  simp only [byteOf, BitVec.extractLsb'_toNat, Nat.shiftRight_eq_div_pow]; omega

/-- The opcode field has a given value exactly when the word's top digit has. -/
theorem opcodeOf_eq_iff (w : CmdWord) (k : Nat) (hk : k < 16) :
    opcodeOf w = BitVec.ofNat 4 k ↔ w.toNat / 4096 = k := by
  rw [← opcodeOf_toNat, ← BitVec.toNat_inj, BitVec.toNat_ofNat, Nat.mod_eq_of_lt hk]

theorem numberOf_eq_zero_iff (w : CmdWord) : numberOf w = 0#12 ↔ w.toNat % 4096 = 0 := by
  rw [← numberOf_toNat, ← BitVec.toNat_inj]; rfl

theorem upperOf_eq_zero_iff (w : CmdWord) : upperOf w = 0#4 ↔ w.toNat / 256 % 16 = 0 := by
  rw [← upperOf_toNat, ← BitVec.toNat_inj]; rfl

/-- Format Z reads its command exactly from the word with no operand bit set. -/
theorem formatZ_eq (i : Instr) (w : CmdWord) :
    formatZ i w = if w.toNat % 4096 = 0 then .ok i else .error (.reservedBits (opcodeOf w)) := by
  simp only [formatZ, numberOf_eq_zero_iff]

/-- Format B reads its command exactly from the words whose upper operand digit is zero. -/
theorem formatB_eq (i : Byte → Instr) (w : CmdWord) :
    formatB i w =
      if w.toNat / 256 % 16 = 0 then .ok (i (byteOf w)) else .error (.reservedBits (opcodeOf w)) := by
  simp only [formatB, upperOf_eq_zero_iff]

/-- The decoder by the digits of the word's number: the form in which it meets the rules' words. -/
theorem decode_eq (w : CmdWord) :
    decode w =
      if w.toNat / 4096 = 0 then formatZ .nop w
      else if w.toNat / 4096 = 1 then formatZ .start w
      else if w.toNat / 4096 = 2 then formatB .byte w
      else if w.toNat / 4096 = 3 then formatB .bytef w
      else if w.toNat / 4096 = 4 then formatZ .latch w
      else if w.toNat / 4096 = 5 then formatN .setreq w
      else if w.toNat / 4096 = 6 then formatZ .clrerr w
      else .error (.reservedOpcode (opcodeOf w)) := by
  simp only [decode, opcodeOf_eq_iff w _ (by decide : 0 < 16), opcodeOf_eq_iff w _ (by decide : 1 < 16),
    opcodeOf_eq_iff w _ (by decide : 2 < 16), opcodeOf_eq_iff w _ (by decide : 3 < 16),
    opcodeOf_eq_iff w _ (by decide : 4 < 16), opcodeOf_eq_iff w _ (by decide : 5 < 16),
    opcodeOf_eq_iff w _ (by decide : 6 < 16)]

end Sys2Proof
end

