-- ==== Sys2Proof/Laws/Operands.lean ====
section
/-! SUPPORT. Small facts about the per-byte count (spec/40_sequence_commands.md R55, R56). -/
namespace Sys2Proof.Machine

/-- The count of a byte is at most 8. -/
theorem lzb_le (b : Byte) : lzb b ≤ 8 := by
  unfold lzb; split_ifs <;> omega

/-- Only the zero byte has no 1 bit. -/
theorem lzb_eq_eight_iff : ∀ b : Byte, lzb b = 8 ↔ b = 0x00#8 := by decide

theorem stopsSequence_eq (b : Byte) : stopsSequence b = decide (b ≠ 0x00#8) := by
  have h := lzb_eq_eight_iff b
  have hle := lzb_le b
  unfold stopsSequence
  by_cases hb : b = 0x00#8
  · simp [hb, lzb]
  · have : lzb b < 8 := by have := mt h.1 hb; omega
    simp [this, hb]

end Sys2Proof.Machine
end

