-- ==== Sys2Proof/Laws/State.lean ====
section
/-! SUPPORT. One lemma per register and per writer: what each of the writers of Machine/Ops.lean leaves in each
field of State. -/
namespace Sys2Proof.Machine

@[simp] theorem State.setCount_maxLen (s : State) (v : Nat) : (s.setCount v).maxLen = s.maxLen := rfl
@[simp] theorem State.setCount_count (s : State) (v : Nat) : (s.setCount v).count = BitVec.ofNat 12 (v % 2 ^ Config.countW s.maxLen) := rfl
@[simp] theorem State.setCount_stopped (s : State) (v : Nat) : (s.setCount v).stopped = s.stopped := rfl
@[simp] theorem State.setCount_required (s : State) (v : Nat) : (s.setCount v).required = s.required := rfl
@[simp] theorem State.setCount_err (s : State) (v : Nat) : (s.setCount v).err = s.err := rfl
@[simp] theorem State.setCount_errCause (s : State) (v : Nat) : (s.setCount v).errCause = s.errCause := rfl
@[simp] theorem State.setCount_script (s : State) (v : Nat) : (s.setCount v).script = s.script := rfl

@[simp] theorem State.setStopped_maxLen (s : State) (v : Bool) : (s.setStopped v).maxLen = s.maxLen := rfl
@[simp] theorem State.setStopped_count (s : State) (v : Bool) : (s.setStopped v).count = s.count := rfl
@[simp] theorem State.setStopped_stopped (s : State) (v : Bool) : (s.setStopped v).stopped = v := rfl
@[simp] theorem State.setStopped_required (s : State) (v : Bool) : (s.setStopped v).required = s.required := rfl
@[simp] theorem State.setStopped_err (s : State) (v : Bool) : (s.setStopped v).err = s.err := rfl
@[simp] theorem State.setStopped_errCause (s : State) (v : Bool) : (s.setStopped v).errCause = s.errCause := rfl
@[simp] theorem State.setStopped_script (s : State) (v : Bool) : (s.setStopped v).script = s.script := rfl

@[simp] theorem State.setRequired_maxLen (s : State) (v : Number) : (s.setRequired v).maxLen = s.maxLen := rfl
@[simp] theorem State.setRequired_count (s : State) (v : Number) : (s.setRequired v).count = s.count := rfl
@[simp] theorem State.setRequired_stopped (s : State) (v : Number) : (s.setRequired v).stopped = s.stopped := rfl
@[simp] theorem State.setRequired_required (s : State) (v : Number) : (s.setRequired v).required = v := rfl
@[simp] theorem State.setRequired_err (s : State) (v : Number) : (s.setRequired v).err = s.err := rfl
@[simp] theorem State.setRequired_errCause (s : State) (v : Number) : (s.setRequired v).errCause = s.errCause := rfl
@[simp] theorem State.setRequired_script (s : State) (v : Number) : (s.setRequired v).script = s.script := rfl

@[simp] theorem State.setError_maxLen (s : State) (e : Bool) (c : ErrCause) : (s.setError e c).maxLen = s.maxLen := rfl
@[simp] theorem State.setError_count (s : State) (e : Bool) (c : ErrCause) : (s.setError e c).count = s.count := rfl
@[simp] theorem State.setError_stopped (s : State) (e : Bool) (c : ErrCause) : (s.setError e c).stopped = s.stopped := rfl
@[simp] theorem State.setError_required (s : State) (e : Bool) (c : ErrCause) : (s.setError e c).required = s.required := rfl
@[simp] theorem State.setError_err (s : State) (e : Bool) (c : ErrCause) : (s.setError e c).err = e := rfl
@[simp] theorem State.setError_errCause (s : State) (e : Bool) (c : ErrCause) : (s.setError e c).errCause = c := rfl
@[simp] theorem State.setError_script (s : State) (e : Bool) (c : ErrCause) : (s.setError e c).script = s.script := rfl

@[simp] theorem State.setScript_maxLen (s : State) (rest : List Inputs) : (s.setScript rest).maxLen = s.maxLen := rfl
@[simp] theorem State.setScript_count (s : State) (rest : List Inputs) : (s.setScript rest).count = s.count := rfl
@[simp] theorem State.setScript_stopped (s : State) (rest : List Inputs) : (s.setScript rest).stopped = s.stopped := rfl
@[simp] theorem State.setScript_required (s : State) (rest : List Inputs) : (s.setScript rest).required = s.required := rfl
@[simp] theorem State.setScript_err (s : State) (rest : List Inputs) : (s.setScript rest).err = s.err := rfl
@[simp] theorem State.setScript_errCause (s : State) (rest : List Inputs) : (s.setScript rest).errCause = s.errCause := rfl
@[simp] theorem State.setScript_script (s : State) (rest : List Inputs) : (s.setScript rest).script = rest := rfl

end Sys2Proof.Machine
end

