-- ==== Sys2Proof/Laws/Ops.lean ====
section
/-! SUPPORT. Everything each shared operation of Machine/Ops.lean and Machine/Sequence.lean can do. -/
namespace Sys2Proof.Machine

/-- A write of a value up to `COUNT_MAX` loses no bit (spec/40_sequence_commands.md R65). -/
theorem State.setCount_of_le {s : State} {v : Nat} (h : Config.Admitted s.maxLen) (hv : v ≤ s.countMax) :
    s.setCount v = { s with count := BitVec.ofNat 12 v } ∧ (BitVec.ofNat 12 v).toNat = v := by
  have hlt : v < 2 ^ Config.countW s.maxLen :=
    Nat.lt_of_le_of_lt hv (Config.countMax_lt_two_pow s.maxLen)
  have h12 : v < 2 ^ 12 := by
    have : s.countMax = 8 * s.maxLen := rfl
    omega
  exact ⟨by simp [State.setCount, Nat.mod_eq_of_lt hlt],
    by rw [BitVec.toNat_ofNat, Nat.mod_eq_of_lt h12]⟩

@[simp] theorem State.startSequence_eq (s : State) :
    s.startSequence = { s with count := 0#12, stopped := false } := by
  simp [State.startSequence, State.setCount, State.setStopped]

@[simp] theorem State.raiseError_eq (s : State) (c : ErrCause) :
    s.raiseError c = { s with err := true, errCause := c } := rfl

@[simp] theorem State.leaveError_eq (s : State) :
    s.leaveError = { s with count := 0#12, stopped := false, err := false, errCause := .none } := by
  simp [State.leaveError, State.setError]

@[simp] theorem State.resetRegisters_eq (s : State) :
    s.resetRegisters = { s with count := 0#12, stopped := false, required := Config.reqNever,
                                err := false, errCause := .none } := by
  simp [State.resetRegisters, State.setError, State.setRequired]

theorem State.whenRunning_of_err {s : State} (t : State) (h : s.err = true) : s.whenRunning t = s := by
  simp [State.whenRunning, h]

theorem State.whenRunning_of_running {s : State} (t : State) (h : s.err = false) : s.whenRunning t = t := by
  simp [State.whenRunning, h]

/-- BYTE's third case on an admitted machine, where the sum is at most `COUNT_MAX` (R60, R65). -/
theorem State.accumulate_of_le {s : State} (b : Byte) (h : Config.Admitted s.maxLen)
    (hv : s.count.toNat + lzb b ≤ s.countMax) :
    s.accumulate b = { s with count := BitVec.ofNat 12 (s.count.toNat + lzb b),
                              stopped := s.stopped || decide (b ≠ 0x00#8) } := by
  simp only [State.accumulate, (State.setCount_of_le h hv).1, State.setStopped, stopsSequence_eq]

/-- Every command has a next state: none stops the block. -/
theorem exec_is_next (i : Instr) (s : State) : ∃ t : State, exec i s = .next t := by
  cases i <;> exact ⟨_, rfl⟩

/-- No command writes MAX_LEN or the host's inputs (logs 1, 3). -/
theorem exec_frame {i : Instr} {s t : State} (h : exec i s = .next t) : t.maxLen = s.maxLen ∧ t.script = s.script := by
  cases i <;> cases h
  case nop => exact ⟨rfl, rfl⟩
  case clrerr => simp
  all_goals
    simp only [State.whenRunning, State.feedByte, State.accumulate]
    split_ifs <;> simp

theorem State.whenRunning_setScript (s t : State) (rest : List Inputs) :
    (s.setScript rest).whenRunning (t.setScript rest) = (s.whenRunning t).setScript rest := by
  cases h : s.err <;> simp [State.whenRunning, h]

theorem State.feedByte_setScript (b : Byte) (s : State) (rest : List Inputs) :
    (s.setScript rest).feedByte b = (s.feedByte b).setScript rest := by
  cases h : s.stopped
  · by_cases hc : s.count.toNat = s.countMax
    · simp [State.feedByte, h, hc, State.countMax, State.setScript]
    · have hc' : (s.setScript rest).count.toNat ≠ (s.setScript rest).countMax := hc
      rw [State.feedByte, State.feedByte, if_neg (by simp [h]), if_neg hc', if_neg (by simp [h]), if_neg hc]
      rfl
  · simp [State.feedByte, h]

/-- No command reads the host's inputs: with others in their place it has the same effect (log 1). -/
theorem exec_setScript {i : Instr} {s t : State} (h : exec i s = .next t) (rest : List Inputs) :
    exec i (s.setScript rest) = .next (t.setScript rest) := by
  cases i <;> cases h
  case nop => rfl
  case clrerr => rfl
  case start => exact congrArg Host.Outcome.next (State.whenRunning_setScript s s.startSequence rest)
  case byte b =>
    rw [exec, execByte, State.feedByte_setScript, State.whenRunning_setScript]
  case bytef b =>
    exact congrArg Host.Outcome.next
      (State.whenRunning_setScript s ((s.setCount (lzb b)).setStopped (stopsSequence b)) rest)
  case latch => exact congrArg Host.Outcome.next (State.whenRunning_setScript s (s.setRequired s.count) rest)
  case setreq n => exact congrArg Host.Outcome.next (State.whenRunning_setScript s (s.setRequired n) rest)

end Sys2Proof.Machine
end

