-- ==== Sys2Proof/Laws/PerInstr.lean ====
section
/-! SUPPORT. A property of the syntax, command by command: the encoder's word matches the command's row of
spec/opcode_table.json. -/
namespace Sys2Proof.Laws.TableRow

/-- The word of the command, under its row's mask, is its row's match. -/
def Statement (i : Instr) : Prop := encode i &&& rowMask i = rowMatch i

theorem nop : Statement .nop := by unfold Statement; decide
theorem start : Statement .start := by unfold Statement; decide
theorem byte (b : Byte) : Statement (.byte b) := by revert b; unfold Statement; decide
theorem bytef (b : Byte) : Statement (.bytef b) := by revert b; unfold Statement; decide
theorem latch : Statement .latch := by unfold Statement; decide
theorem clrerr : Statement .clrerr := by unfold Statement; decide

theorem setreq (n : Number) : Statement (.setreq n) := by
  unfold Statement encode rowMask rowMatch
  apply BitVec.eq_of_getLsbD_eq
  intro k hk
  rw [BitVec.getLsbD_and, BitVec.getLsbD_append]
  by_cases h : k < 12
  · have : ∀ j < 12, (0xF000#16).getLsbD j = false ∧ (0x5000#16).getLsbD j = false := by decide
    simp [h, this k h]
  · have : ∀ j < 16, 12 ≤ j →
        ((0x5#4).getLsbD (j - 12) && (0xF000#16).getLsbD j) = (0x5000#16).getLsbD j := by decide
    simpa [h] using this k hk (by omega)

end Sys2Proof.Laws.TableRow
end

