-- ==== Sys2Proof/Laws/Step.lean ====
section
/-! SUPPORT. What one edge can do, said once, and runs one edge at a time (spec/30_encoding.md R48). -/
namespace Sys2Proof.Machine

theorem step_cons {s : State} {e : Inputs} {rest : List Inputs} (h : Config.Admitted s.maxLen)
    (hs : s.script = e :: rest) : step s = clockEdge e (s.setScript rest) := by
  simp only [step, nextEdge, if_pos h, hs]

theorem step_refused {s : State} (h : ¬ Config.Admitted s.maxLen) :
    step s = .refused (.maxLenNotAdmitted s.maxLen) := by
  simp only [step, nextEdge, if_neg h]

theorem clockEdge_rst {e : Inputs} (s : State) (h : e.rst = true) :
    clockEdge e s = .next s.resetRegisters := by
  simp [clockEdge, h]

theorem clockEdge_idle {e : Inputs} (s : State) (h : e.rst = false) (hv : e.cmdValid = false) :
    clockEdge e s = .next s := by
  simp [clockEdge, h, hv]

theorem clockEdge_word {e : Inputs} (s : State) (h : e.rst = false) (hv : e.cmdValid = true) :
    clockEdge e s = runWord e.cmd s := by
  simp [clockEdge, h, hv]

theorem runWord_ok {w : CmdWord} {i : Instr} (s : State) (h : decode w = .ok i) :
    runWord w s = exec i s := by
  simp [runWord, h]

theorem runWord_error {w : CmdWord} {d : DecodeError} (s : State) (h : decode w = .error d) :
    runWord w s = .next (s.whenRunning (s.raiseError .illegalCmd)) := by
  simp [runWord, h]

/-- The cases of an edge: reset, idle, a command, or a word that spells none. -/
theorem clockEdge_cases (e : Inputs) (s : State) :
    (e.rst = true ∧ clockEdge e s = .next s.resetRegisters) ∨
    (e.rst = false ∧ e.cmdValid = false ∧ clockEdge e s = .next s) ∨
    (e.rst = false ∧ e.cmdValid = true ∧ ∃ i, decode e.cmd = .ok i ∧ clockEdge e s = exec i s) ∨
    (e.rst = false ∧ e.cmdValid = true ∧ ∃ d, decode e.cmd = .error d ∧
      clockEdge e s = .next (s.whenRunning (s.raiseError .illegalCmd))) := by
  cases hr : e.rst
  · cases hv : e.cmdValid
    · exact .inr (.inl ⟨rfl, rfl, clockEdge_idle s hr hv⟩)
    · cases hd : decode e.cmd with
      | ok i => exact .inr (.inr (.inl ⟨rfl, rfl, i, rfl, by rw [clockEdge_word s hr hv, runWord_ok s hd]⟩))
      | error d =>
        exact .inr (.inr (.inr ⟨rfl, rfl, d, rfl, by rw [clockEdge_word s hr hv, runWord_error s hd]⟩))
  · exact .inl ⟨rfl, clockEdge_rst s hr⟩

@[simp] theorem runs_zero (s : State) : runs 0 s = .next s := rfl

theorem runs_succ_of_step {s t : State} (k : Nat) (h : step s = .next t) : runs (k + 1) s = runs k t := by
  simp [runs, h]

/-- A run of `j + k` edges is a run of `k` edges from where the first `j` end. -/
theorem runs_add {j k : Nat} {s t : State} (h : runs j s = .next t) : runs (j + k) s = runs k t := by
  induction j generalizing s with
  | zero => cases h; rw [Nat.zero_add]
  | succ j ih =>
    rw [Nat.succ_add]
    cases hs : step s with
    | next u => rw [runs_succ_of_step _ hs] at h ⊢; exact ih h
    | fault r => simp [runs, hs] at h
    | refused r => simp [runs, hs] at h

end Sys2Proof.Machine
end

