-- ==== Sys2Proof/Laws/Script.lean ====
section
/-! SUPPORT. The words of script lines decode to the lines' commands, and what one edge makes of each line
(spec/30_encoding.md R49). -/
namespace Sys2Proof.Machine

@[simp] theorem Inputs.command_rst (w : CmdWord) : (Inputs.command w).rst = false := rfl
@[simp] theorem Inputs.command_cmdValid (w : CmdWord) : (Inputs.command w).cmdValid = true := rfl
@[simp] theorem Inputs.command_cmd (w : CmdWord) : (Inputs.command w).cmd = w := rfl

theorem decode_byte_line {b : Nat} (hb : b ≤ 255) :
    decode (BitVec.ofNat 16 (0x2000 + b)) = .ok (.byte (BitVec.ofNat 8 b)) := by
  have hw : (BitVec.ofNat 16 (0x2000 + b)).toNat = 0x2000 + b := by rw [BitVec.toNat_ofNat]; omega
  have hby : byteOf (BitVec.ofNat 16 (0x2000 + b)) = BitVec.ofNat 8 b := by
    rw [← BitVec.toNat_inj, byteOf_toNat, hw, BitVec.toNat_ofNat]; omega
  rw [decode_eq, hw]
  simp only [formatB_eq, hw, hby]
  have h1 : (0x2000 + b) / 4096 = 2 := by omega
  have h2 : (0x2000 + b) / 256 % 16 = 0 := by omega
  simp [h1, h2]

theorem decode_bytef_line {b : Nat} (hb : b ≤ 255) :
    decode (BitVec.ofNat 16 (0x3000 + b)) = .ok (.bytef (BitVec.ofNat 8 b)) := by
  have hw : (BitVec.ofNat 16 (0x3000 + b)).toNat = 0x3000 + b := by rw [BitVec.toNat_ofNat]; omega
  have hby : byteOf (BitVec.ofNat 16 (0x3000 + b)) = BitVec.ofNat 8 b := by
    rw [← BitVec.toNat_inj, byteOf_toNat, hw, BitVec.toNat_ofNat]; omega
  rw [decode_eq, hw]
  simp only [formatB_eq, hw, hby]
  have h1 : (0x3000 + b) / 4096 = 3 := by omega
  have h2 : (0x3000 + b) / 256 % 16 = 0 := by omega
  simp [h1, h2]

theorem decode_setreq_line {n : Nat} (hn : n ≤ 4095) :
    decode (BitVec.ofNat 16 (0x5000 + n)) = .ok (.setreq (BitVec.ofNat 12 n)) := by
  have hw : (BitVec.ofNat 16 (0x5000 + n)).toNat = 0x5000 + n := by rw [BitVec.toNat_ofNat]; omega
  have hnum : numberOf (BitVec.ofNat 16 (0x5000 + n)) = BitVec.ofNat 12 n := by
    rw [← BitVec.toNat_inj, numberOf_toNat, hw, BitVec.toNat_ofNat]; omega
  rw [decode_eq, hw]
  simp only [formatN, hnum]
  have h1 : (0x5000 + n) / 4096 = 5 := by omega
  simp [h1]

/-- The command a line presents, if it presents one. -/
def Line.command : Line → Option Instr
  | .nop => some .nop
  | .start => some .start
  | .byte b => some (.byte (BitVec.ofNat 8 b))
  | .bytef b => some (.bytef (BitVec.ofNat 8 b))
  | .latch => some .latch
  | .setreq n => some (.setreq (BitVec.ofNat 12 n))
  | .clrerr => some .clrerr
  | .reset _ _ | .idle _ | .word _ => none

/-- The word of a well-formed command line decodes to the line's command. -/
theorem Line.decode_inputs {l : Line} {i : Instr} (hl : l.wellFormed = true) (hi : l.command = some i) :
    decode l.inputs.cmd = .ok i ∧ l.inputs.rst = false ∧ l.inputs.cmdValid = true := by
  cases l <;> simp only [Line.command, Option.some.injEq, reduceCtorEq] at hi <;> subst hi <;>
    refine ⟨?_, rfl, rfl⟩
  case byte b => exact decode_byte_line (of_decide_eq_true hl)
  case bytef b => exact decode_bytef_line (of_decide_eq_true hl)
  case setreq n => exact decode_setreq_line (of_decide_eq_true hl)
  all_goals rfl

/-- One edge with a well-formed command line runs its command. -/
theorem step_command_line {s : State} {l : Line} {i : Instr} {rest : List Inputs} (h : Config.Admitted s.maxLen)
    (hl : l.wellFormed = true) (hi : l.command = some i) (hs : s.script = l.inputs :: rest) :
    step s = exec i (s.setScript rest) := by
  obtain ⟨hd, hr, hv⟩ := Line.decode_inputs hl hi
  rw [step_cons h hs, clockEdge_word _ hr hv, runWord_ok _ hd]

/-- One edge with an idle line only passes. -/
theorem step_idle_line {s : State} {w : CmdWord} {rest : List Inputs} (h : Config.Admitted s.maxLen)
    (hs : s.script = Line.inputs (.idle w) :: rest) : step s = .next (s.setScript rest) := by
  rw [step_cons h hs, clockEdge_idle _ rfl rfl]

end Sys2Proof.Machine
end

