-- ==== Sys2Proof/Tests/Slice0.lean ====
section
/-! SUPPORT. The model's own tests: words written out from spec/30_encoding.md R41 and R42, single steps and
values taken from spec/95_test_vectors.md, an ill-formed term for each check of WellFormed.lean, and for every
statement with hypotheses a state and operands that meet them. -/
namespace Sys2Proof.Tests
open Sys2Proof.Machine

/-- A state with the columns of spec/95_test_vectors.md: count, stopped, required, err, err_cause. -/
def st (maxLen count : Nat) (stopped : Bool) (required : Nat) (err : Bool) (cause : ErrCause)
    (script : List Inputs) : State where
  maxLen := maxLen
  count := BitVec.ofNat 12 count
  stopped := stopped
  required := BitVec.ofNat 12 required
  err := err
  errCause := cause
  script := script

/-- The next state, if there is one. -/
def after : Host.Outcome State Fault Refusal → Option State
  | .next s => some s
  | .fault _ => none
  | .refused _ => none

/-- The columns after the edge at which the host drives `e`. -/
def edge (maxLen count : Nat) (stopped : Bool) (required : Nat) (err : Bool) (cause : ErrCause) (e : Inputs) :
    Option State :=
  after (step (st maxLen count stopped required err cause [e]))

/-! ### Words, bit by bit (R41, R42) -/

theorem test_decode_nop : decode 0b0000_0000_0000_0000#16 = .ok .nop := by decide
theorem test_decode_start : decode 0b0001_0000_0000_0000#16 = .ok .start := by decide
theorem test_decode_byte : decode 0b0010_0000_1010_0101#16 = .ok (.byte 0b10100101#8) := by decide
theorem test_decode_bytef : decode 0b0011_0000_1000_0001#16 = .ok (.bytef 0b10000001#8) := by decide
theorem test_decode_latch : decode 0b0100_0000_0000_0000#16 = .ok .latch := by decide
theorem test_decode_setreq : decode 0b0101_1000_0000_0001#16 = .ok (.setreq 0b100000000001#12) := by decide
theorem test_decode_clrerr : decode 0b0110_0000_0000_0000#16 = .ok .clrerr := by decide

/-- Section 2.9's illegal words, each refused by name. -/
theorem test_decode_illegal :
    decode 0x0001#16 = .error (.reservedBits 0#4) ∧ decode 0x0800#16 = .error (.reservedBits 0#4) ∧
    decode 0x1001#16 = .error (.reservedBits 1#4) ∧ decode 0x2100#16 = .error (.reservedBits 2#4) ∧
    decode 0x2F00#16 = .error (.reservedBits 2#4) ∧ decode 0x3100#16 = .error (.reservedBits 3#4) ∧
    decode 0x4800#16 = .error (.reservedBits 4#4) ∧ decode 0x6001#16 = .error (.reservedBits 6#4) ∧
    decode 0x7000#16 = .error (.reservedOpcode 7#4) ∧ decode 0x8000#16 = .error (.reservedOpcode 8#4) ∧
    decode 0xF000#16 = .error (.reservedOpcode 15#4) ∧ decode 0xFFFF#16 = .error (.reservedOpcode 15#4) := by
  decide

theorem test_table_word : decodeTableWord 16 0x200F = some (.byte 0x0F#8) ∧ decodeTableWord 16 0x2100 = none := by
  decide

/-! ### Checks (R1, R49, R50) -/

theorem test_line_byte_refused : (Line.byte 256).wellFormed = false ∧ (Line.byte 255).wellFormed = true := by decide
theorem test_line_bytef_refused : (Line.bytef 256).wellFormed = false ∧ (Line.bytef 255).wellFormed = true := by decide
theorem test_line_setreq_refused :
    (Line.setreq 4096).wellFormed = false ∧ (Line.setreq 4095).wellFormed = true := by decide
theorem test_seqf_empty_refused : (Pseudo.seqf []).wellFormed = false ∧ (Pseudo.seqf [0]).wellFormed = true := by decide
theorem test_pseudo_byte_refused :
    (Pseudo.seq [256]).wellFormed = false ∧ (Pseudo.seqf [256]).wellFormed = false ∧
    (Pseudo.loaddiff [0, 256]).wellFormed = false ∧ (Pseudo.check [256]).wellFormed = false := by decide
theorem test_max_len_refused :
    (State.resetAt 0 []).wellFormed = false ∧ (State.resetAt 512 []).wellFormed = false ∧
    (State.resetAt 1 []).wellFormed = true ∧ (State.resetAt 511 []).wellFormed = true := by decide

/-! ### Functions and parameters (sections 1.1, 1.2, 2.1, 2.8) -/

/-- S1 to S4 and boundaries of section 2.1. -/
theorem test_lzb :
    [0x00#8, 0x01#8, 0x03#8, 0x04#8, 0x0F#8, 0x10#8, 0x3F#8, 0x55#8, 0x7F#8, 0x80#8, 0xFF#8].map lzb =
      [8, 7, 6, 5, 4, 3, 2, 1, 1, 0, 0] := by decide

/-- S6, S7, S8, S11 and two rows of section 2.2. -/
theorem test_lzs :
    lzs [] = 0 ∧ lzs [0x00#8, 0x00#8, 0xFF#8] = 16 ∧ lzs [0x00#8, 0x0F#8] = 12 ∧ lzs [0x00#8, 0x02#8] = 14 ∧
    lzs [0x7F#8, 0x00#8] = 1 ∧ lzs [0x00#8, 0x40#8, 0x00#8, 0x00#8] = 9 := by decide

theorem test_parameters :
    [1, 2, 32, 64, 511].map Config.countMax = [8, 16, 256, 512, 4088] ∧
    [1, 2, 32, 64, 511].map Config.countW = [4, 5, 9, 10, 12] := by decide

/-! ### Single steps (sections 2.3 to 2.7 and program P4) -/

theorem test_nop : edge 32 12 true 4 false .none (Line.inputs .nop) = some (st 32 12 true 4 false .none []) := by decide
theorem test_nop_reserved_bit :
    edge 32 12 true 4 false .none (Line.inputs (.word 0x0001#16)) = some (st 32 12 true 4 true .illegalCmd []) := by
  decide
theorem test_start : edge 32 16 true 4 false .none (Line.inputs .start) = some (st 32 0 false 4 false .none []) := by
  decide
theorem test_start_frozen :
    edge 32 8 false 4 true .illegalCmd (Line.inputs .start) = some (st 32 8 false 4 true .illegalCmd []) := by decide
theorem test_byte_stops :
    edge 32 8 false 4 false .none (Line.inputs (.byte 0x0F)) = some (st 32 12 true 4 false .none []) := by decide
/-- Program P4, cycle 4, at MAX_LEN = 2. -/
theorem test_byte_overlong :
    edge 2 16 false 4 false .none (Line.inputs (.byte 0x00)) = some (st 2 16 false 4 true .overlong []) := by decide
theorem test_bytef_full :
    edge 32 256 false 4 false .none (Line.inputs (.bytef 0x00)) = some (st 32 8 false 4 false .none []) := by decide
theorem test_bytef_stops :
    edge 32 5 true 4 false .none (Line.inputs (.bytef 0x0F)) = some (st 32 4 true 4 false .none []) := by decide
theorem test_latch :
    (edge 32 4 true 4095 false .none (Line.inputs .latch)).map (fun t => (t.required, t.pass)) = some (4#12, true) := by
  decide
theorem test_latch_reserved_bit :
    edge 32 12 true 4 false .none (Line.inputs (.word 0x4001#16)) = some (st 32 12 true 4 true .illegalCmd []) := by
  decide
theorem test_setreq_fails :
    (edge 32 12 true 4 false .none (Line.inputs (.setreq 13))).map (fun t => (t.required, t.pass)) =
      some (13#12, false) := by decide
theorem test_setreq_tie :
    (edge 32 12 true 4 false .none (Line.inputs (.setreq 12))).map (fun t => (t.required, t.pass)) =
      some (12#12, true) := by decide
theorem test_clrerr :
    edge 32 256 false 4 true .overlong (Line.inputs .clrerr) = some (st 32 0 false 4 false .none []) := by decide
theorem test_clrerr_reserved_bit :
    edge 32 8 false 4 true .illegalCmd (Line.inputs (.word 0x6001#16)) =
      some (st 32 8 false 4 true .illegalCmd []) := by decide
theorem test_illegal_beats_overlong :
    edge 32 256 false 4 false .none (Line.inputs (.word 0x2100#16)) = some (st 32 256 false 4 true .illegalCmd []) := by
  decide
theorem test_idle :
    edge 32 8 false 4 false .none (Line.inputs (.idle 0x7000#16)) = some (st 32 8 false 4 false .none []) := by decide
theorem test_reset_wins :
    edge 32 12 true 4 false .none (Line.inputs (.reset true 0x7000#16)) = some (st 32 0 false 4095 false .none []) := by
  decide
theorem test_fetch_word :
    (after (step (State.reset.withFetchWord 16 0x500D))).map (·.required) = some 13#12 := by decide
/-- Section 2.1: `cmd = 0xFF0F` with `cmd_valid = 0` shows `lzb = 4`. -/
theorem test_lzb_output : (State.reset.outputs (Line.inputs (.idle 0xFF0F#16))).lzb = 4#4 := by decide

/-! ### Witnesses: the hypotheses of each statement, met together -/

theorem witness_CountWidthIsLeast : Config.Admitted 1 ∧ Config.Admitted 511 := by decide

theorem witness_NeverThresholdNeverPasses : (st 511 4088 false 4095 false .none []).Inv := by decide

theorem witness_UnadmittedParameterRefused :
    step (State.resetAt 0 []) = .refused (.maxLenNotAdmitted 0) ∧
    step (State.resetAt 512 []) = .refused (.maxLenNotAdmitted 512) := ⟨rfl, rfl⟩

theorem witness_ReservedOpcodesIllegal :
    7 ≤ (0x7000#16).toNat / 4096 ∧ 7 ≤ (0xFFFF#16).toNat / 4096 ∧
    ∃ s : State, Config.Admitted s.maxLen ∧ s.err = false ∧ s.script = [.command 0xFFFF#16] :=
  ⟨by decide, by decide, State.resetAt 1 [.command 0xFFFF#16], by decide⟩

theorem witness_ReservedBitsIllegal :
    ((0x6FFF#16).toNat / 4096 = 6 ∧ (0x6FFF#16).toNat % 4096 ≠ 0) ∧
    ((0x2100#16).toNat / 4096 = 2 ∧ (0x2100#16).toNat / 256 % 16 ≠ 0) ∧
    ∃ s : State, Config.Admitted s.maxLen ∧ s.err = false ∧ s.script = [.command 0x2100#16] :=
  ⟨by decide, by decide, State.resetAt 511 [.command 0x2100#16], by decide⟩

theorem witness_StepRunsDecodedCommand :
    ∃ (s : State) (e : Inputs), Config.Admitted s.maxLen ∧ s.script = [e] ∧ e.rst = false ∧ e.cmdValid = true ∧
      decode e.cmd = .ok (.byte 0x0F#8) :=
  ⟨State.resetAt 32 [.command 0x200F#16], .command 0x200F#16, by decide⟩

theorem witness_StepRefinesPseudocode :
    ∃ (s : State) (e : Inputs), s.Inv ∧ s.script = [e] ∧ s.err = true ∧ s.errCause = .overlong :=
  ⟨st 2 16 false 4 true .overlong [.command 0x6000#16], .command 0x6000#16, by decide⟩

/-- Also of ExhaustedScriptIdles. -/
theorem witness_EveryEdgeHasNextState :
    ∃ s : State, Config.Admitted s.maxLen ∧ s.script = [] ∧ ¬ s.Inv :=
  ⟨st 32 4095 true 0 false .none [], by decide⟩

theorem witness_IdleCyclesChangeNothing :
    ∃ s : State, Config.Admitted s.maxLen ∧ s.err = true ∧
      s.script = driven ([0xFFFF#16, 0x0000#16].map .idle) ++ [.command 0x1000#16] :=
  ⟨st 32 8 false 4 true .illegalCmd (driven ([0xFFFF#16, 0x0000#16].map .idle) ++ [.command 0x1000#16]), by decide⟩

theorem witness_ResetFromAnyState :
    ∃ s : State, Config.Admitted s.maxLen ∧ s.script = [Line.inputs (.reset true 0x7000#16)] ∧ ¬ s.Inv :=
  ⟨st 32 300 true 4 true .none [Line.inputs (.reset true 0x7000#16)], by decide⟩

theorem witness_ResetHeldSeveralEdges :
    ∃ (s : State) (es : List Inputs), Config.Admitted s.maxLen ∧ es ≠ [] ∧ (∀ e ∈ es, e.rst = true) ∧
      s.script = es ++ [.command 0x0000#16] :=
  ⟨st 32 8 false 4 true .illegalCmd (driven [.reset true 0x7000#16, .reset false 0x0000#16, .nop]),
   driven [.reset true 0x7000#16, .reset false 0x0000#16], by decide⟩

theorem witness_IllegalWordEntersError :
    ¬ Spec.Legal (0x2100#16).toNat ∧ ¬ Spec.Legal (0xFFFF#16).toNat ∧
    ∃ s₁ s₂ s₃ s₄ : State, Config.Admitted s₁.maxLen ∧ Config.Admitted s₂.maxLen ∧ Config.Admitted s₃.maxLen ∧
      Config.Admitted s₄.maxLen ∧ s₁.err = false ∧ s₁.script = [.command 0x2100#16] ∧
      s₂.script = [Line.inputs (.idle 0xFFFF#16)] ∧ s₃.script = [Line.inputs (.reset true 0xFFFF#16)] ∧
      s₄.err = true ∧ s₄.script = [.command 0x2100#16] :=
  ⟨by decide, by decide, State.resetAt 1 [.command 0x2100#16], State.resetAt 32 [Line.inputs (.idle 0xFFFF#16)],
   State.resetAt 32 [Line.inputs (.reset true 0xFFFF#16)], st 511 8 false 4 true .illegalCmd [.command 0x2100#16],
   by decide⟩

/-- Both clauses: a full accumulator, and a step into the error state. -/
theorem witness_OverlongOnlyFromByte :
    ∃ s : State, s.err = false ∧ s.stopped = false ∧ s.count.toNat = 8 * s.maxLen ∧
      exec (.byte 0xFF#8) s = .next { s with err := true, errCause := .overlong } :=
  ⟨st 511 4088 false 0 false .none [], by decide, by decide, by decide, rfl⟩

/-- A state and inputs for each of the two errors. -/
theorem witness_ErrorsRaisedExactly :
    (∃ (s t : State) (e : Inputs), s.Inv ∧ s.err = false ∧ s.script = [e] ∧ step s = .next t ∧
      t.errCause.code = 1#2) ∧
    (∃ (s t : State) (e : Inputs), s.Inv ∧ s.err = false ∧ s.script = [e] ∧ step s = .next t ∧
      t.errCause.code = 2#2) :=
  ⟨⟨st 1 8 false 4 false .none [.command 0x7000#16], st 1 8 false 4 true .illegalCmd [], .command 0x7000#16,
    by decide, by decide, by decide, rfl, by decide⟩,
   ⟨st 1 8 false 4 false .none [.command 0x2000#16], st 1 8 false 4 true .overlong [], .command 0x2000#16,
    by decide, by decide, by decide, rfl, by decide⟩⟩

theorem witness_IllegalBeatsOverlong :
    ∃ s : State, Config.Admitted s.maxLen ∧ s.err = false ∧ s.stopped = false ∧ s.count.toNat = 8 * s.maxLen ∧
      (0x2100#16).toNat / 4096 = 2 ∧ (0x2100#16).toNat / 256 % 16 ≠ 0 ∧ s.script = [.command 0x2100#16] :=
  ⟨st 32 256 false 4 false .none [.command 0x2100#16], by decide⟩

theorem witness_ErrorStateFrozen :
    ∃ (s : State) (es : List Inputs), Config.Admitted s.maxLen ∧ s.err = true ∧
      (∀ e ∈ es, e.rst = false ∧ ¬ (e.cmdValid = true ∧ e.cmd = 0x6000#16)) ∧
      s.script = es ++ [.command 0x6000#16] :=
  ⟨st 32 8 false 4 true .illegalCmd (driven [.word 0x6001#16, .idle 0x6000#16, .setreq 0, .clrerr]),
   driven [.word 0x6001#16, .idle 0x6000#16, .setreq 0], by decide⟩

/-- One state for each exit and one that stays. -/
theorem witness_ErrorStateExits :
    ∀ e ∈ driven [.reset false 0x0000#16, .clrerr, .start], ∃ s : State, Config.Admitted s.maxLen ∧ s.err = true ∧
      s.script = [e] := by
  intro e _
  exact ⟨st 32 8 false 4 true .illegalCmd [e], by show Config.Admitted 32; decide, rfl, rfl⟩

/-- A BYTE after the stop, and one on an accumulator that is not full. -/
theorem witness_NoOtherErrors :
    ∃ s₁ s₂ : State, s₁.Inv ∧ s₁.err = false ∧ s₁.stopped = true ∧ s₂.Inv ∧ s₂.err = false ∧ s₂.stopped = false ∧
      s₂.count.toNat ≠ 8 * s₂.maxLen :=
  ⟨st 32 255 true 4 false .none [], st 32 248 false 4 false .none [], by decide⟩

/-- The illegal words of the opcodes 0, 1, 2, 3, 4 and 6 that the command statements name, the word of SETREQ at the
top of its range, and a state for either value of `err`. -/
theorem witness_command_statements :
    ((0x0001#16).toNat / 4096 = 0 ∧ 0x0001#16 ≠ 0x0000#16) ∧ ((0x1800#16).toNat / 4096 = 1 ∧ 0x1800#16 ≠ 0x1000#16) ∧
    ((0x2F00#16).toNat / 4096 = 2 ∧ (0x2F00#16).toNat / 256 % 16 ≠ 0) ∧
    ((0x3F00#16).toNat / 4096 = 3 ∧ (0x3F00#16).toNat / 256 % 16 ≠ 0) ∧
    ((0x4001#16).toNat / 4096 = 4 ∧ 0x4001#16 ≠ 0x4000#16) ∧ (0x5FFF#16).toNat / 4096 = 5 ∧
    ((0x6001#16).toNat / 4096 = 6 ∧ 0x6001#16 ≠ 0x6000#16) ∧
    (∃ s : State, s.Inv ∧ s.err = true) ∧ (∃ s : State, s.Inv ∧ s.err = false ∧ s.errCause = .none) :=
  ⟨by decide, by decide, by decide, by decide, by decide, by decide, by decide,
   ⟨st 32 8 false 4 true .illegalCmd [], by decide⟩, ⟨State.reset, by decide⟩⟩

/-- The three cases of BYTE at their boundaries; the last is ByteSumNeverWraps' premise too. -/
theorem witness_ByteHasThreeCases :
    ∃ s₁ s₂ s₃ : State, s₁.Inv ∧ s₁.err = false ∧ s₁.stopped = true ∧
      s₂.Inv ∧ s₂.err = false ∧ s₂.stopped = false ∧ s₂.count.toNat = Config.countMax s₂.maxLen ∧
      s₃.Inv ∧ s₃.err = false ∧ s₃.stopped = false ∧ s₃.count.toNat ≠ Config.countMax s₃.maxLen :=
  ⟨st 32 255 true 4 false .none [], st 32 256 false 4 false .none [], st 32 248 false 4 false .none [], by decide⟩

theorem witness_BytefIsStartThenByte :
    ∃ s : State, Config.Admitted s.maxLen ∧ s.maxLen = 1 ∧ s.err = false :=
  ⟨st 1 8 false 0 false .none [], by decide⟩

/-- SETREQ above `COUNT_MAX`, and CLRERR's illegal word in and out of the error state. -/
theorem witness_SetreqLoadsNumber_ClrerrLeavesErrorState :
    (∃ s : State, s.Inv ∧ s.err = false ∧ Config.countMax s.maxLen < (4089#12).toNat) ∧
    (∃ s : State, Config.Admitted s.maxLen ∧ s.err = false ∧ s.script = [.command 0x6001#16]) ∧
    (∃ s : State, Config.Admitted s.maxLen ∧ s.err = true ∧ s.script = [.command 0x6001#16]) :=
  ⟨⟨st 511 4088 false 4 false .none [], by decide⟩, ⟨st 32 12 true 4 false .none [.command 0x6001#16], by decide⟩,
   ⟨st 32 12 true 4 true .illegalCmd [.command 0x6001#16], by decide⟩⟩

/-- CountingCommandsFrame, ThresholdCommandsFrame, ClrerrFrame: each command has a next state. -/
theorem witness_frames :
    ∀ i ∈ [Instr.nop, .start, .byte 0x00#8, .bytef 0xFF#8, .latch, .setreq 7#12, .clrerr],
      ∃ t : State, exec i State.reset = .next t := by
  intro i _
  cases i <;> exact ⟨_, rfl⟩

/-- Each writer of `required`: RESET, LATCH, SETREQ. -/
theorem witness_OnlyThreeWritersOfRequired :
    ∀ l ∈ [Line.reset false 0x0000#16, .latch, .setreq 4094],
      ∃ s t : State, s.script = [l.inputs] ∧ step s = .next t ∧ t.required ≠ s.required := by
  intro l hl
  simp only [List.mem_cons, List.not_mem_nil, or_false] at hl
  rcases hl with rfl | rfl | rfl
  · exact ⟨st 32 8 false 4 false .none [Line.inputs (.reset false 0x0000#16)], _, rfl, rfl, by decide⟩
  · exact ⟨st 32 8 false 4 false .none [Line.inputs .latch], _, rfl, rfl, by decide⟩
  · exact ⟨st 32 8 false 4 false .none [Line.inputs (.setreq 4094)], _, rfl, rfl, by decide⟩

/-- START and BYTEF each lower the count. -/
theorem witness_CountFallsOnlyAtSequenceStart :
    (∃ s t : State, s.Inv ∧ s.script = driven [.start] ∧ step s = .next t ∧ t.count.toNat < s.count.toNat) ∧
    (∃ s t : State, s.Inv ∧ s.script = driven [.bytef 0xFF] ∧ step s = .next t ∧ t.count.toNat < s.count.toNat) :=
  ⟨⟨st 32 256 false 4 false .none (driven [.start]), _, by decide, rfl, rfl, by decide⟩,
   ⟨st 32 8 false 4 false .none (driven [.bytef 0xFF]), _, by decide, rfl, rfl, by decide⟩⟩

/-- `stopped` is set by a BYTE and cleared by a BYTEF. -/
theorem witness_StoppedFlagWriters :
    (∃ s t : State, s.script = driven [.byte 0x80] ∧ step s = .next t ∧ s.stopped = false ∧ t.stopped = true) ∧
    (∃ s t : State, s.script = driven [.bytef 0x00] ∧ step s = .next t ∧ s.stopped = true ∧ t.stopped = false) :=
  ⟨⟨st 32 0 false 4 false .none (driven [.byte 0x80]), _, rfl, rfl, by decide, by decide⟩,
   ⟨st 32 12 true 4 false .none (driven [.bytef 0x00]), _, rfl, rfl, by decide, by decide⟩⟩

theorem witness_NoHiddenState :
    ∃ s₁ s₂ : State, Config.Admitted s₁.maxLen ∧ s₁.maxLen = s₂.maxLen ∧ s₁.regs = s₂.regs ∧
      s₁.script = driven [.byte 0x01] ∧ s₂.script = driven [.byte 0x01, .clrerr] :=
  ⟨State.resetAt 32 (driven [.byte 0x01]), State.resetAt 32 (driven [.byte 0x01, .clrerr]), by decide⟩

/-- Two commands, a command after RESET, and SETREQ, each at a boundary: an overflowing BYTE before a LATCH, an
unreached state before RESET, and the least passing threshold. -/
theorem witness_BackToBackCommands_any :
    (∃ s : State, Config.Admitted s.maxLen ∧ decode 0x2000#16 = .ok (.byte 0x00#8) ∧ decode 0x4000#16 = .ok .latch ∧
      s.err = false ∧ s.stopped = false ∧ s.count.toNat = Config.countMax s.maxLen ∧
      s.script = [.command 0x2000#16, .command 0x4000#16]) ∧
    (∃ s : State, Config.Admitted s.maxLen ∧ ¬ s.Inv ∧ decode 0x20FF#16 = .ok (.byte 0xFF#8) ∧
      s.script = [Line.inputs (.reset true 0x7000#16), .command 0x20FF#16]) ∧
    (∃ s : State, Config.Admitted s.maxLen ∧ s.err = false ∧ s.count = 4088#12 ∧
      s.script = [.command (encode (.setreq 4088#12))]) :=
  ⟨⟨st 32 256 false 4 false .none [.command 0x2000#16, .command 0x4000#16], by decide⟩,
   ⟨st 32 300 true 4 true .none [Line.inputs (.reset true 0x7000#16), .command 0x20FF#16], by decide⟩,
   ⟨st 511 4088 false 4095 false .none [.command (encode (.setreq 4088#12))], by decide⟩⟩

/-- The three pairs of BackToBackCommands, the first and third on a stopped sequence and on a full accumulator's
neighbour. -/
theorem witness_BackToBackCommands :
    (∃ s : State, s.Inv ∧ s.err = false ∧ s.stopped = true ∧
      s.script = driven [.byte (0x00#8).toNat, .latch] ++ []) ∧
    (∃ s : State, s.Inv ∧ s.err = false ∧ s.stopped = false ∧ s.count.toNat ≠ Config.countMax s.maxLen ∧
      s.script = driven [.byte (0x00#8).toNat, .latch] ++ []) ∧
    (∃ s : State, s.Inv ∧ s.err = false ∧ s.script = driven [.start, .byte (0xFF#8).toNat] ++ []) ∧
    (∃ s : State, s.Inv ∧ s.err = false ∧ s.stopped = true ∧
      s.script = driven [.byte (0x00#8).toNat, .bytef (0x01#8).toNat] ++ []) ∧
    (∃ s : State, s.Inv ∧ s.err = false ∧ s.count.toNat ≠ Config.countMax s.maxLen ∧
      s.script = driven [.byte (0x00#8).toNat, .bytef (0x01#8).toNat] ++ []) :=
  ⟨⟨st 32 255 true 4 false .none (driven [.byte 0x00, .latch]), by decide⟩,
   ⟨st 32 248 false 4 false .none (driven [.byte 0x00, .latch]), by decide⟩,
   ⟨st 32 256 false 4 false .none (driven [.start, .byte 0xFF]), by decide⟩,
   ⟨st 32 255 true 4 false .none (driven [.byte 0x00, .bytef 0x01]), by decide⟩,
   ⟨st 32 248 false 4 false .none (driven [.byte 0x00, .bytef 0x01]), by decide⟩⟩

theorem witness_OutputsOfACycle : (0xFF0F#16).toNat % 256 = (0x200F#16).toNat % 256 := by decide

/-- The comparator's samples of section 2.6: a tie, one less, one more, and the error state. -/
theorem witness_PassIsThresholdTest :
    (∃ s : State, s.err = false ∧ s.count = s.required) ∧
    (∃ s : State, s.err = false ∧ s.count.toNat + 1 = s.required.toNat) ∧
    (∃ s : State, s.err = false ∧ s.count.toNat = s.required.toNat + 1) ∧ (∃ s : State, s.err = true) :=
  ⟨⟨st 32 4 true 4 false .none [], by decide⟩, ⟨st 32 3 true 4 false .none [], by decide⟩,
   ⟨st 32 5 true 4 false .none [], by decide⟩, ⟨st 32 256 false 0 true .overlong [], by decide⟩⟩

/-- Section 2.6's integers -3 and 5000, and the ends of the exact range, each with its operand. -/
theorem witness_IntegerThresholdMapping :
    State.reset.Inv ∧ State.reset.err = false ∧
    ∀ p ∈ [((-3 : Int), 0#12), (0, 0#12), (4095, 4095#12), (5000, 4095#12)],
      (p.1 ≤ 0 → p.2 = 0#12) ∧ (0 ≤ p.1 → p.1 ≤ 4095 → (p.2.toNat : Int) = p.1) ∧ (4095 < p.1 → p.2 = 4095#12) := by
  decide

theorem witness_LzsIsBitStringCount : true ∉ [0x00#8, 0x00#8].flatMap bitsOf := by decide

theorem witness_LzsLaws :
    (∃ b ∈ [0x00#8, 0x02#8], b ≠ 0x00#8) ∧
    ∃ s : State, s.Inv ∧ s.err = false ∧ s.stopped = false ∧ s.count.toNat < Config.countMax s.maxLen :=
  ⟨by decide, st 32 248 false 4 false .none [], by decide⟩

/-- A sequence within MAX_LEN = 1 behind each kind of beginning, with LATCH and an idle cycle between, and one that
is too long. -/
theorem witness_SequenceComputesLzs :
    (∀ p ∈ [(Line.reset false 0x0000#16, []), (.start, []), (.clrerr, []), (.bytef 0x00, [0x00#8])],
      p.1.begins = some p.2) ∧
    (∀ l ∈ [Line.latch, .idle 0xFFFF#16, .setreq 4095, .nop], l.inSequence = true) ∧
    (∀ l ∈ [Line.byte 0x00], l.inSequence = true) ∧
    (∃ s : State, s.Inv ∧ s.err = false ∧ Fits s.maxLen [0x00#8] ∧ s.maxLen < [0x00#8, 0x00#8].length ∧
      s.maxLen ≤ leadingZeroBytes [0x00#8, 0x00#8] ∧ s.script = driven [.bytef 0x00, .byte 0x00] ++ []) :=
  ⟨by decide, by decide, by decide, State.resetAt 1 (driven [.bytef 0x00, .byte 0x00]), by decide⟩

/-- SEQ of a full sequence, and SEQF of one byte. -/
theorem witness_SeqComputesSequenceCount :
    (∃ s : State, s.Inv ∧ s.err = false ∧ Fits s.maxLen [0x00#8, 0x00#8] ∧
      s.script = driven (Pseudo.seq (operands [0x00#8, 0x00#8])).lines ++ []) ∧
    (∃ s : State, s.Inv ∧ s.err = false ∧ Fits s.maxLen [0x0F#8] ∧ [0x0F#8] ≠ [] ∧
      s.script = driven (Pseudo.seqf (operands [0x0F#8])).lines ++ []) :=
  ⟨⟨State.resetAt 2 (driven (Pseudo.seq [0, 0]).lines), by decide⟩,
   ⟨State.resetAt 2 (driven (Pseudo.seqf [0x0F]).lines), by decide⟩⟩

/-- An encoding and a digest of different lengths, and a threshold at the top of its range. -/
theorem witness_VerdictOfDigest :
    (∃ s : State, s.Inv ∧ s.err = false ∧ Fits s.maxLen [0x00#8, 0x0F#8] ∧ Fits s.maxLen [0x0F#8] ∧
      s.script = driven ((Pseudo.loaddiff (operands [0x0F#8])).lines ++
        (Pseudo.seq (operands [0x00#8, 0x0F#8])).lines) ++ []) ∧
    (∃ s : State, s.Inv ∧ s.err = false ∧ Fits s.maxLen [0x00#8] ∧
      s.script = driven (.setreq 4095 :: (Pseudo.seq (operands [0x00#8])).lines) ++ []) :=
  ⟨⟨State.resetAt 32 (driven ((Pseudo.loaddiff [0x0F]).lines ++ (Pseudo.seq [0x00, 0x0F]).lines)), by decide⟩,
   ⟨State.resetAt 32 (driven (.setreq 4095 :: (Pseudo.seq [0x00]).lines)), by decide⟩⟩

theorem witness_SeqfLeavesSameState : State.reset.Inv ∧ State.reset.err = false ∧ [0x00#8] ≠ [] := by decide

/-- A sequence in which `pass` is already 1, and one that goes on too long; EarlyStopKeepsVerdict's premises too. -/
theorem witness_PassMonotoneInSequence :
    (∀ l ∈ [Line.byte 0xFF, .idle 0x6000#16, .nop], l.keepsThreshold = true) ∧
    (∃ s : State, s.Inv ∧ s.err = false ∧ s.pass = true ∧ s.stopped = true ∧
      s.script = driven [.byte 0xFF, .idle 0x6000#16, .nop] ++ []) ∧
    (∃ s t : State, s.Inv ∧ s.err = false ∧ s.script = driven [.byte 0xFF] ++ [] ∧ runs 1 s = .next t ∧
      t.err = true) :=
  ⟨by decide, ⟨st 32 16 true 16 false .none (driven [.byte 0xFF, .idle 0x6000#16, .nop]), by decide⟩,
   ⟨st 1 8 false 0 false .none (driven [.byte 0xFF]), _, by decide, by decide, by decide, rfl, by decide⟩⟩

/-- Two encodings of different lengths whose first 1 bit is the last bit of byte 0, on machines of different MAX_LEN;
an encoding with no 1 bit agrees with one whose first 1 bit follows its length. -/
theorem witness_OnlyFirstOneBitMatters_any :
    ∃ s₁ s₂ : State, s₁.Inv ∧ s₂.Inv ∧ s₁.err = false ∧ s₂.err = false ∧
      Fits s₁.maxLen [0x01#8] ∧ Fits s₂.maxLen [0x01#8, 0xFF#8] ∧
      leadingZeroBits ([0x01#8].flatMap bitsOf) = leadingZeroBits ([0x01#8, 0xFF#8].flatMap bitsOf) ∧
      leadingZeroBits ([0x00#8].flatMap bitsOf) = leadingZeroBits ([0x00#8, 0x80#8].flatMap bitsOf) ∧
      s₁.script = driven (Pseudo.loaddiff (operands [0x01#8])).lines ++ [] ∧
      s₂.script = driven (Pseudo.loaddiff (operands [0x01#8, 0xFF#8])).lines ++ [] :=
  ⟨State.resetAt 1 (driven (Pseudo.loaddiff [0x01]).lines), State.resetAt 511 (driven (Pseudo.loaddiff [0x01, 0xFF]).lines),
   by decide⟩

theorem witness_OnlyFirstOneBitMatters :
    ∃ s : State, s.Inv ∧ s.err = false ∧
      s.script = driven (Pseudo.loaddiff (operands [0x08#8, 0x00#8])).lines ++ [] :=
  ⟨State.resetAt 1 (driven (Pseudo.loaddiff [0x08, 0x00]).lines), by decide⟩

/-- ResetStateHasInvariant and ReachedStatesObeyTheList at both ends of MAX_LEN. -/
theorem witness_reset_parameters : Config.Admitted 1 ∧ Config.Admitted 511 ∧ ¬ Config.Admitted 0 := by decide

theorem witness_StepKeepsInvariant :
    ∃ s t : State, s.Inv ∧ s.script = driven [.byte 0x00] ∧ step s = .next t ∧ t.count.toNat = 4088 :=
  ⟨st 511 4080 false 4 false .none (driven [.byte 0x00]), _, by decide, rfl, rfl, by decide⟩

/-- A count that no run reaches. -/
theorem witness_CountStaysInItsWidth :
    ∃ s t : State, s.count.toNat < 2 ^ Config.countW s.maxLen ∧ ¬ s.Inv ∧ step s = .next t :=
  ⟨st 32 511 false 4 false .none (driven [.byte 0x01]), _, by decide, by decide, rfl⟩

end Sys2Proof.Tests
end

section
/-! The parameters of spec/00_scope.md: the width of `count` (R3), the threshold no count meets (R4) and the
refusal of a MAX_LEN that is not admitted (R1, U15). -/
namespace Sys2Proof

/-- The defining property of `COUNT_W` (R3): the widths from it up are those that hold `COUNT_MAX`. -/
theorem Config.countW_le_iff {m : Nat} (h : Config.Admitted m) (w : Nat) :
    Config.countW m ≤ w ↔ Config.countMax m < 2 ^ w :=
  Nat.succ_le_iff.trans (Nat.log2_lt (Config.countMax_pos h))

theorem Config.countW_eq_clog {m : Nat} (h : Config.Admitted m) :
    Config.countW m = Nat.clog 2 (Config.countMax m + 1) :=
  eq_of_forall_ge_iff fun w => by
    rw [Config.countW_le_iff h, Nat.clog_le_iff_le_pow Nat.one_lt_two, Nat.succ_le_iff]

theorem Config.le_countW {m : Nat} (h : Config.Admitted m) : 4 ≤ Config.countW m := by
  have hthree : ¬ Config.countW m ≤ 3 := by
    rw [Config.countW_le_iff h, Config.countMax_eq]
    omega
  omega

theorem Config.countMax_le {m : Nat} (h : Config.Admitted m) : Config.countMax m ≤ 4088 := by
  rw [Config.countMax_eq]
  omega

/-- The comparator's verdict is 0 on a count below the threshold, whatever `err` is (R72). -/
theorem Machine.State.pass_of_count_lt {s : Machine.State} (h : s.count.toNat < s.required.toNat) :
    s.pass = false := by
  simp [Machine.State.pass, h]

open Machine

/-- Settles O1: a width at least `COUNT_W` is one that holds `COUNT_MAX`, hence every value below it; the other
clauses are instances of that equivalence. -/
theorem countWidthIsLeast : Obligations.CountWidthIsLeast := by
  refine ⟨fun m h => ⟨Config.countW_eq_clog h, fun w => ?_, Config.le_countW h, Config.countW_le h⟩,
    by decide, by decide, by decide, by decide⟩
  rw [Config.countW_le_iff h]
  exact ⟨fun hmax _ hv => hv.trans_lt hmax, fun hall => hall _ le_rfl⟩

/-- Settles O2: the invariant bounds the count by `COUNT_MAX`, which is at most 4088 and so below `REQ_NEVER`. -/
theorem neverThresholdNeverPasses : Obligations.NeverThresholdNeverPasses := by
  have hnever : Config.reqNever.toNat = 4095 := by decide
  refine ⟨hnever, fun m => Config.countMax_le, fun s hinv hreq => State.pass_of_count_lt ?_⟩
  obtain ⟨hadm, hcount, -⟩ := hinv
  calc s.count.toNat ≤ 4088 := hcount.trans (Config.countMax_le hadm)
    _ < Config.reqNever.toNat := by rw [hnever]; decide
    _ = s.required.toNat := by rw [hreq]

/-- Settles O3: the step refuses a MAX_LEN that is not admitted, and neither 0 nor a value from 512 up is. -/
theorem unadmittedParameterRefused : Obligations.UnadmittedParameterRefused := by
  intro s hout
  have hadm : ¬ Config.Admitted s.maxLen := by omega
  exact step_refused hadm

end Sys2Proof
end

section
/-! What one edge can write, said once as an inversion of the step (spec/30_encoding.md R48): RESET, nothing, the
error entry of an illegal word, or the registers of one command under its guards. -/
namespace Sys2Proof

theorem encode_byte_toNat (b : Byte) : (encode (.byte b)).toNat = 0x2000 + b.toNat := by
  revert b; decide

theorem encode_bytef_toNat (b : Byte) : (encode (.bytef b)).toNat = 0x3000 + b.toNat := by
  revert b; decide

theorem encode_setreq_toNat (n : Number) : (encode (.setreq n)).toNat = 0x5000 + n.toNat := by
  rw [encode, BitVec.toNat_append, ← Nat.shiftLeft_add_eq_or_of_lt n.isLt]
  rfl

theorem toNat_of_formatZ {i j : Instr} {w : CmdWord} (h : formatZ i w = .ok j) : j = i ∧ w.toNat % 4096 = 0 := by
  rw [formatZ_eq] at h
  split_ifs at h with hz
  exact ⟨(Except.ok.inj h).symm, hz⟩

theorem toNat_of_formatB {f : Byte → Instr} {j : Instr} {w : CmdWord} (h : formatB f w = .ok j) :
    j = f (byteOf w) ∧ w.toNat / 256 % 16 = 0 := by
  rw [formatB_eq] at h
  split_ifs at h with hz
  exact ⟨(Except.ok.inj h).symm, hz⟩

/-- A word spells no command but the one whose encoding it is (R42). -/
theorem eq_encode_of_decode {w : CmdWord} {i : Instr} (h : decode w = .ok i) : w = encode i := by
  apply BitVec.eq_of_toNat_eq
  rw [decode_eq] at h
  split_ifs at h with h0 h1 h2 h3 h4 h5 h6
  · obtain ⟨rfl, hz⟩ := toNat_of_formatZ h
    exact (by omega : w.toNat = 0x0000)
  · obtain ⟨rfl, hz⟩ := toNat_of_formatZ h
    exact (by omega : w.toNat = 0x1000)
  · obtain ⟨rfl, hz⟩ := toNat_of_formatB h
    rw [encode_byte_toNat, byteOf_toNat]; omega
  · obtain ⟨rfl, hz⟩ := toNat_of_formatB h
    rw [encode_bytef_toNat, byteOf_toNat]; omega
  · obtain ⟨rfl, hz⟩ := toNat_of_formatZ h
    exact (by omega : w.toNat = 0x4000)
  · cases h
    rw [encode_setreq_toNat, numberOf_toNat]; omega
  · obtain ⟨rfl, hz⟩ := toNat_of_formatZ h
    exact (by omega : w.toNat = 0x6000)

namespace Machine

/-- A command that writes a register: the guard under which it does and the state it leaves (R59 to R61, R70, R71,
R80). -/
inductive CommandWrites (s : State) : Instr → State → Prop where
  | start (herr : s.err = false) : CommandWrites s .start s.startSequence
  | overlong (b : Byte) (herr : s.err = false) (hgo : s.stopped = false) (hfull : s.count.toNat = s.countMax) :
      CommandWrites s (.byte b) (s.raiseError .overlong)
  | accumulate (b : Byte) (herr : s.err = false) (hgo : s.stopped = false) (hroom : s.count.toNat ≠ s.countMax) :
      CommandWrites s (.byte b) (s.accumulate b)
  | bytef (b : Byte) (herr : s.err = false) :
      CommandWrites s (.bytef b) ((s.setCount (lzb b)).setStopped (stopsSequence b))
  | latch (herr : s.err = false) : CommandWrites s .latch (s.setRequired s.count)
  | setreq (n : Number) (herr : s.err = false) : CommandWrites s (.setreq n) (s.setRequired n)
  | clrerr : CommandWrites s .clrerr s.leaveError

theorem State.whenRunning_cases {s u t : State} (h : s.whenRunning u = t) : t = s ∨ (s.err = false ∧ t = u) := by
  cases herr : s.err
  · exact .inr ⟨rfl, by rw [← h, State.whenRunning_of_running u herr]⟩
  · exact .inl (by rw [← h, State.whenRunning_of_err u herr])

/-- The three cases of BYTE (R60). -/
theorem State.feedByte_cases {s : State} {b : Byte} (herr : s.err = false) :
    s.feedByte b = s ∨ CommandWrites s (.byte b) (s.feedByte b) := by
  unfold State.feedByte
  split_ifs with hstop hfull
  · exact .inl rfl
  · exact .inr (.overlong b herr (by simpa using hstop) hfull)
  · exact .inr (.accumulate b herr (by simpa using hstop) hfull)

/-- A command leaves the state as it is, or writes under its guard. -/
theorem exec_cases {i : Instr} {s t : State} (h : exec i s = .next t) : t = s ∨ CommandWrites s i t := by
  cases i <;> have h := Host.Outcome.next.inj h
  case nop => exact .inl h.symm
  case start => exact (State.whenRunning_cases h).imp_right fun ⟨herr, ht⟩ => ht ▸ .start herr
  case byte b =>
    obtain rfl | ⟨herr, rfl⟩ := State.whenRunning_cases h
    · exact .inl rfl
    · exact State.feedByte_cases herr
  case bytef => exact (State.whenRunning_cases h).imp_right fun ⟨herr, ht⟩ => ht ▸ .bytef _ herr
  case latch => exact (State.whenRunning_cases h).imp_right fun ⟨herr, ht⟩ => ht ▸ .latch herr
  case setreq => exact (State.whenRunning_cases h).imp_right fun ⟨herr, ht⟩ => ht ▸ .setreq _ herr
  case clrerr => exact .inr (h ▸ .clrerr)

/-- What the edge at which the host drives `e` makes of the registers of `s` (R48). -/
inductive EdgeEffect (e : Inputs) (s : State) : State → Prop where
  | reset (hr : e.rst = true) : EdgeEffect e s s.resetRegisters
  | unchanged (hr : e.rst = false) : EdgeEffect e s s
  | command {i : Instr} {t : State} (hr : e.rst = false) (hv : e.cmdValid = true) (hw : e.cmd = encode i)
      (hx : CommandWrites s i t) : EdgeEffect e s t
  | illegal {d : DecodeError} (hr : e.rst = false) (hv : e.cmdValid = true) (hd : decode e.cmd = .error d)
      (herr : s.err = false) : EdgeEffect e s (s.raiseError .illegalCmd)

theorem clockEdge_effect {e : Inputs} {s t : State} (h : clockEdge e s = .next t) : EdgeEffect e s t := by
  obtain ⟨hr, he⟩ | ⟨hr, -, he⟩ | ⟨hr, hv, i, hd, he⟩ | ⟨hr, hv, d, hd, he⟩ := clockEdge_cases e s <;>
    rw [he] at h
  · cases h; exact .reset hr
  · cases h; exact .unchanged hr
  · obtain rfl | hx := exec_cases h
    · exact .unchanged hr
    · exact .command hr hv (eq_encode_of_decode hd) hx
  · obtain rfl | ⟨herr, rfl⟩ := State.whenRunning_cases (Host.Outcome.next.inj h)
    · exact .unchanged hr
    · exact .illegal hr hv hd herr

/-- RESET leaves the RESET state, with the machine's MAX_LEN and the inputs to come (R23, R101). -/
theorem State.resetRegisters_eq_resetAt (s : State) : s.resetRegisters = State.resetAt s.maxLen s.script :=
  s.resetRegisters_eq

theorem admitted_of_step {s t : State} (h : step s = .next t) : Config.Admitted s.maxLen := by
  by_contra hadm
  rw [step_refused hadm] at h
  cases h

theorem step_effect {s t : State} {e : Inputs} {rest : List Inputs} (hs : s.script = e :: rest)
    (h : step s = .next t) : EdgeEffect e (s.setScript rest) t :=
  clockEdge_effect (step_cons (admitted_of_step h) hs ▸ h)

theorem step_of_script_nil {s : State} (h : Config.Admitted s.maxLen) (hs : s.script = []) : step s = .next s := by
  simp only [step, nextEdge, if_pos h, hs]

/-- What no input list influences and every edge keeps, every step keeps. -/
theorem step_keeps {P : State → Prop} (hscript : ∀ s rest, P s → P (s.setScript rest))
    (hedge : ∀ e s t, EdgeEffect e s t → P s → P t) {s t : State} (hP : P s)
    (h : step s = .next t) : P t := by
  cases hs : s.script with
  | nil => rw [step_of_script_nil (admitted_of_step h) hs] at h; cases h; exact hP
  | cons e rest => exact hedge e _ t (step_effect hs h) (hscript s rest hP)

theorem clockEdge_is_next (e : Inputs) (s : State) :
    ∃ t : State, clockEdge e s = .next t ∧ t.maxLen = s.maxLen ∧ t.script = s.script := by
  obtain ⟨-, he⟩ | ⟨-, -, he⟩ | ⟨-, -, i, -, he⟩ | ⟨-, -, d, -, he⟩ := clockEdge_cases e s
  · exact ⟨_, he, by simp, by simp⟩
  · exact ⟨_, he, rfl, rfl⟩
  · obtain ⟨t, ht⟩ := exec_is_next i s
    exact ⟨t, he.trans ht, exec_frame ht⟩
  · refine ⟨_, he, ?_⟩
    obtain hu | ⟨-, hu⟩ := State.whenRunning_cases (s := s) (u := s.raiseError .illegalCmd) rfl <;> rw [hu]
    · exact ⟨rfl, rfl⟩
    · exact ⟨rfl, rfl⟩

/-- On an admitted machine every edge has a next state, of the same MAX_LEN (R48, log 1, log 3). -/
theorem step_is_next {s : State} (h : Config.Admitted s.maxLen) :
    ∃ t : State, step s = .next t ∧ t.maxLen = s.maxLen ∧ t.script = s.script.tail := by
  cases hs : s.script with
  | nil => exact ⟨s, step_of_script_nil h hs, rfl, hs⟩
  | cons e rest =>
    rw [step_cons h hs]
    exact clockEdge_is_next e (s.setScript rest)

end Machine
end Sys2Proof
end

section
/-! The invariants of spec/10_state.md R16: what each write leaves of them, one edge, and every run from RESET. -/
namespace Sys2Proof.Machine

/-- At a sequence start only the error registers are left to check. -/
theorem State.inv_of_count_zero {s : State} (hadm : Config.Admitted s.maxLen) (hcount : s.count = 0#12)
    (hgo : s.stopped = false) (herr : s.err = true ↔ s.errCause ≠ .none) (hover : s.errCause ≠ .overlong) : s.Inv := by
  exact ⟨hadm, by simp [hcount], by simp [hcount], by simp [hgo], herr, fun h => absurd h hover⟩

theorem State.Inv.errCause_eq_none {s : State} (hinv : s.Inv) (herr : s.err = false) : s.errCause = .none := by
  obtain ⟨-, -, -, -, hcause, -⟩ := hinv
  simpa [herr] using hcause

theorem State.Inv.eight_le_countMax {s : State} (hinv : s.Inv) : 8 ≤ s.countMax :=
  Nat.mul_le_mul_left 8 hinv.1.1

/-- A running accumulator that is not full has room for a whole byte (R65). -/
theorem State.Inv.room {s : State} (hinv : s.Inv) (hgo : s.stopped = false) (hroom : s.count.toNat ≠ s.countMax) :
    s.count.toNat % 8 = 0 ∧ s.count.toNat + 8 ≤ s.countMax := by
  obtain ⟨-, hle, hmul, -⟩ := hinv
  have hmod := hmul hgo
  have hmax : s.countMax = 8 * s.maxLen := rfl
  omega

theorem State.Inv.startSequence {s : State} (hinv : s.Inv) (herr : s.err = false) : s.startSequence.Inv := by
  have hnone := hinv.errCause_eq_none herr
  exact State.inv_of_count_zero (by simpa using hinv.1) (by simp) (by simp) (by simp [herr, hnone])
    (by simp [hnone])

theorem State.inv_leaveError {s : State} (hadm : Config.Admitted s.maxLen) : s.leaveError.Inv :=
  State.inv_of_count_zero (by simpa using hadm) (by simp) (by simp) (by simp) (by simp)

theorem State.inv_resetAt {m : Nat} (script : List Inputs) (hadm : Config.Admitted m) :
    (State.resetAt m script).Inv :=
  State.inv_of_count_zero hadm rfl rfl (by decide : false = true ↔ ErrCause.none ≠ .none)
    (by decide : ErrCause.none ≠ .overlong)

theorem State.Inv.raiseError {s : State} (hinv : s.Inv) {c : ErrCause} (hc : c ≠ .none)
    (hover : c = .overlong → s.stopped = false ∧ s.count.toNat = s.countMax) : (s.raiseError c).Inv := by
  obtain ⟨hadm, hle, hmul, hlt, -, -⟩ := hinv
  exact ⟨hadm, hle, hmul, hlt, by simp [hc], hover⟩

/-- Adding a byte to a multiple of 8 with room for 8: the sum stays a multiple of 8 for the zero byte, and below
`COUNT_MAX` for the others. BYTE adds to the count (R60), BYTEF to zero (R61). -/
theorem State.Inv.addByte {s : State} (hinv : s.Inv) (herr : s.err = false) (b : Byte) {c : Nat}
    (hmod : c % 8 = 0) (hroom : c + 8 ≤ s.countMax) :
    ((s.setCount (c + lzb b)).setStopped (stopsSequence b)).Inv := by
  have hnone := hinv.errCause_eq_none herr
  have hle := lzb_le b
  obtain ⟨hset, hval⟩ := State.setCount_of_le hinv.1 (by omega : c + lzb b ≤ s.countMax)
  rw [hset]
  refine ⟨hinv.1, ?_, fun hgo => ?_, fun hstop => ?_, by simp [State.setStopped, herr, hnone],
    by simp [State.setStopped, hnone]⟩ <;>
    simp only [State.setStopped_count, hval]
  · exact (by omega : c + lzb b ≤ s.countMax)
  · have : ¬ lzb b < 8 := of_decide_eq_false hgo
    omega
  · have : lzb b < 8 := of_decide_eq_true hstop
    exact (by omega : c + lzb b + 1 ≤ s.countMax)

theorem CommandWrites.inv {i : Instr} {s t : State} (hx : CommandWrites s i t) (hinv : s.Inv) : t.Inv := by
  cases hx with
  | start herr => exact hinv.startSequence herr
  | overlong b herr hgo hfull => exact hinv.raiseError (by simp) fun _ => ⟨hgo, hfull⟩
  | accumulate b herr hgo hroom =>
    obtain ⟨hmod, hle⟩ := hinv.room hgo hroom
    rw [State.accumulate, hgo, Bool.false_or]
    exact hinv.addByte herr b hmod hle
  | bytef b herr =>
    have hroom : 0 + 8 ≤ s.countMax := hinv.eight_le_countMax
    simpa using hinv.addByte herr b (Nat.zero_mod 8) hroom
  | latch herr => exact hinv
  | setreq n herr => exact hinv
  | clrerr => exact State.inv_leaveError hinv.1

theorem EdgeEffect.inv {e : Inputs} {s t : State} (he : EdgeEffect e s t) (hinv : s.Inv) : t.Inv := by
  cases he with
  | reset hr => rw [State.resetRegisters_eq_resetAt]; exact State.inv_resetAt s.script hinv.1
  | unchanged hr => exact hinv
  | command hr hv hw hx => exact hx.inv hinv
  | illegal hr hv hd herr => exact hinv.raiseError (by simp) (by simp)

theorem step_keeps_inv {s t : State} (hinv : s.Inv) (h : step s = .next t) : t.Inv :=
  step_keeps (P := State.Inv) (fun _ _ hP => hP) (fun _ _ _ he hP => he.inv hP) hinv h

/-- Any number of edges from a state of the invariant ends in one, of the same MAX_LEN. -/
theorem runs_keeps_inv (k : Nat) {s : State} (hinv : s.Inv) :
    ∃ t : State, runs k s = .next t ∧ t.Inv ∧ t.maxLen = s.maxLen := by
  induction k generalizing s with
  | zero => exact ⟨s, rfl, hinv, rfl⟩
  | succ k ih =>
    obtain ⟨u, hu, hlen, -⟩ := step_is_next hinv.1
    obtain ⟨t, ht, htinv, htlen⟩ := ih (step_keeps_inv hinv hu)
    exact ⟨t, (runs_succ_of_step k hu).trans ht, htinv, htlen.trans hlen⟩

/-- The codes of R15: 0 is NONE, 1 and 2 the errors, and 3 is never shown. -/
theorem ErrCause.code_cases (c : ErrCause) :
    (c ≠ .none ↔ c.code = 1#2 ∨ c.code = 2#2) ∧ c.code ≠ 3#2 ∧ (c.code = 2#2 ↔ c = .overlong) := by
  cases c <;> decide

/-- Settles O54: the invariant does not read the host's inputs, and each write of an edge keeps it. -/
theorem stepKeepsInvariant : Obligations.StepKeepsInvariant :=
  fun _ _ => step_keeps_inv

/-- Settles O53: RESET is a sequence start without an error. -/
theorem resetStateHasInvariant : Obligations.ResetStateHasInvariant :=
  ⟨rfl, fun _ script => State.inv_resetAt script⟩

/-- Settles O55: the invariant holds at RESET and along every run; the rule's `z` and `j` are the quotient and the
remainder of the count by 8. -/
theorem reachedStatesObeyTheList : Obligations.ReachedStatesObeyTheList := by
  intro m script k hadm
  obtain ⟨t, ht, ⟨-, hle, hmul, hlt, herr, hover⟩, hlen⟩ := runs_keeps_inv k (State.inv_resetAt script hadm)
  obtain ⟨hcode, hthree, htwo⟩ := t.errCause.code_cases
  have hm : t.maxLen = m := hlen
  rw [State.countMax, hm] at hle hlt hover
  have hmax := Config.countMax_eq m
  refine ⟨t, ht, hm, hle, fun hgo => ⟨t.count.toNat / 8, ?_, ?_⟩,
    fun hstop => ⟨t.count.toNat / 8, t.count.toNat % 8, ?_, ?_, ?_⟩, herr.trans hcode, hthree,
    fun hc => hover (htwo.1 hc)⟩
  · omega
  · have := hmul hgo
    omega
  · have := hlt hstop
    omega
  · omega
  · omega

end Sys2Proof.Machine
end

section
/-! The registers one by one (spec/10_state.md R10 to R15): who writes them, and what their width keeps. -/
namespace Sys2Proof.Machine

@[simp] theorem State.outputs_pass (s : State) (e : Inputs) : (s.outputs e).pass = s.pass := rfl

/-- BYTE where there is room adds, on an admitted machine (R60). -/
theorem exec_byte_of_room {s : State} (b : Byte) (hadm : Config.Admitted s.maxLen) (herr : s.err = false)
    (hgo : s.stopped = false) (hroom : s.count.toNat + 8 ≤ s.countMax) :
    exec (.byte b) s = .next { s with count := BitVec.ofNat 12 (s.count.toNat + lzb b),
                                      stopped := decide (b ≠ 0x00#8) } ∧
    (BitVec.ofNat 12 (s.count.toNat + lzb b)).toNat = s.count.toNat + lzb b := by
  have hsum : s.count.toNat + lzb b ≤ s.countMax := by have := lzb_le b; omega
  have hfull : s.count.toNat ≠ s.countMax := by omega
  refine ⟨?_, (State.setCount_of_le hadm hsum).2⟩
  rw [exec, execByte, State.whenRunning_of_running _ herr, State.feedByte, if_neg (by simp [hgo]), if_neg hfull,
    State.accumulate_of_le b hadm hsum, hgo, Bool.false_or]

/-- Settles O15: the edge leaves the RESET state of the machine, and on it a byte finds room, MAX_LEN being at
least 1. -/
theorem resetFromAnyState : Obligations.ResetFromAnyState := by
  intro s v w rest hadm hs
  have hstep : step s = .next (State.resetAt s.maxLen rest) := by
    rw [step_cons hadm hs, clockEdge_rst _ rfl, State.resetRegisters_eq_resetAt]; rfl
  refine ⟨_, hstep, rfl, rfl, rfl, rfl, rfl, rfl, rfl, fun e => ⟨?_, rfl, rfl, rfl, rfl, rfl⟩, fun b => ?_⟩
  · rw [State.outputs_pass]
    exact State.pass_of_count_lt (by decide : (0#12).toNat < Config.reqNever.toNat)
  · have hroom : (0#12).toNat + 8 ≤ Config.countMax s.maxLen := by
      rw [Config.countMax_eq, BitVec.toNat_zero]; omega
    obtain ⟨hexec, hval⟩ := exec_byte_of_room (s := State.resetAt s.maxLen rest) b hadm rfl rfl hroom
    exact ⟨_, hexec, rfl, hval.trans (Nat.zero_add _)⟩

theorem CommandWrites.required_eq {i : Instr} {s t : State} (hx : CommandWrites s i t) (hl : i ≠ .latch)
    (hn : ∀ n, i ≠ .setreq n) : t.required = s.required := by
  cases hx with
  | latch herr => exact absurd rfl hl
  | setreq n herr => exact absurd rfl (hn n)
  | _ => simp [State.accumulate]

/-- Outside CLRERR a command that writes the error registers leaves the accumulator alone, and it is a BYTE. -/
theorem CommandWrites.error_eq {i : Instr} {s t : State} (hx : CommandWrites s i t) (hc : i ≠ .clrerr) :
    (t.err = s.err ∧ t.errCause = s.errCause) ∨
    ((∃ b, i = .byte b) ∧ t.count = s.count ∧ t.stopped = s.stopped) := by
  cases hx with
  | overlong b herr hgo hfull => exact .inr ⟨⟨b, rfl⟩, rfl, rfl⟩
  | clrerr => exact absurd rfl hc
  | _ => simp [State.accumulate]

/-- Settles O32: none of the four is a writer of `required`, and where one of them writes the error registers it is
a BYTE that leaves the accumulator alone. -/
theorem countingCommandsFrame : Obligations.CountingCommandsFrame := by
  refine ⟨fun s t i hi h => ⟨?_, exec_frame h⟩, fun s t i hi h => ?_, fun s t b h => ?_, fun s t h => ?_⟩
  · obtain rfl | hx := exec_cases h
    · rfl
    · obtain rfl | rfl | ⟨b, rfl⟩ | ⟨b, rfl⟩ := hi <;> exact hx.required_eq (by simp) (by simp)
  · obtain rfl | hx := exec_cases h
    · exact ⟨rfl, rfl⟩
    · obtain rfl | rfl | ⟨b, rfl⟩ := hi <;> simpa using hx.error_eq (by simp)
  · obtain rfl | hx := exec_cases h
    · exact .inl ⟨rfl, rfl⟩
    · exact (hx.error_eq (by simp)).imp_right And.right
  · cases h
    exact ⟨rfl, rfl⟩

/-- Settles O35: by the writes of an edge, of which RESET, LATCH and SETREQ alone touch `required`. -/
theorem onlyThreeWritersOfRequired : Obligations.OnlyThreeWritersOfRequired := by
  intro s t e rest hs h hne
  cases step_effect hs h with
  | reset hr => exact .inl ⟨hr, by simp [Config.reqNever]⟩
  | unchanged hr => exact absurd rfl hne
  | illegal hr hv hd herr => exact absurd rfl hne
  | @command i _ hr hv hw hx =>
    by_cases hi : i ≠ .latch ∧ ∀ n, i ≠ .setreq n
    · exact absurd (hx.required_eq hi.1 hi.2) hne
    · cases hx with
      | latch herr => exact .inr ⟨hr, hv, herr, .inl ⟨hw, rfl⟩⟩
      | setreq n herr =>
        have hnat : e.cmd.toNat = 0x5000 + n.toNat := hw ▸ encode_setreq_toNat n
        have hn := n.isLt
        exact .inr ⟨hr, hv, herr, .inr ⟨by omega, by simp only [State.setRequired_required]; omega⟩⟩
      | _ => simp at hi

/-- A word of a BYTE or BYTEF with its two digits and its operand. -/
theorem byte_word_fields {w : CmdWord} {k : Nat} {b : Byte} (h : w.toNat = 256 * k + b.toNat) :
    w.toNat / 256 = k ∧ w.toNat % 256 = b.toNat ∧ BitVec.ofNat 8 w.toNat = b := by
  have hb := b.isLt
  refine ⟨by omega, by omega, ?_⟩
  rw [← BitVec.toNat_inj, BitVec.toNat_ofNat]
  omega

/-- Settles O36: an accumulated byte adds without wrapping (R65), and every other write of the count is a sequence
start. -/
theorem countFallsOnlyAtSequenceStart : Obligations.CountFallsOnlyAtSequenceStart := by
  intro s t e rest hinv hs h hlt
  cases step_effect hs h with
  | reset hr => exact .inl ⟨by simp, .inl hr⟩
  | unchanged hr => exact absurd hlt (lt_irrefl _)
  | illegal hr hv hd herr => exact absurd hlt (lt_irrefl _)
  | command hr hv hw hx =>
    cases hx with
    | start herr => exact .inl ⟨by simp, .inr ⟨hv, .inr ⟨herr, hw⟩⟩⟩
    | clrerr => exact .inl ⟨by simp, .inr ⟨hv, .inl hw⟩⟩
    | overlong | latch | setreq => exact absurd hlt (lt_irrefl _)
    | accumulate b herr hgo hroom =>
      obtain ⟨-, hle⟩ := hinv.room hgo hroom
      have hsum : s.count.toNat + lzb b ≤ s.countMax := by have := lzb_le b; omega
      have hval : ((s.setScript rest).accumulate b).count.toNat = s.count.toNat + lzb b := by
        rw [State.accumulate_of_le (s := s.setScript rest) b hinv.1 hsum]
        exact (State.setCount_of_le hinv.1 hsum).2
      omega
    | bytef b herr =>
      obtain ⟨hop, -, hb⟩ := byte_word_fields (k := 0x30) (hw ▸ encode_bytef_toNat b)
      have hle : lzb b ≤ s.countMax := (lzb_le b).trans hinv.eight_le_countMax
      obtain ⟨hset, hval⟩ := State.setCount_of_le (s := s.setScript rest) hinv.1 hle
      exact .inr ⟨hr, hv, herr, hop, by rw [hb, State.setStopped_count, hset]; exact hval⟩

/-- A flag that keeps its value is neither set nor cleared. -/
theorem flag_unwritten {old new : Bool} {P Q : Prop} (h : new = old) :
    (old = false → new = true → P) ∧ (old = true → new = false → Q) := by
  subst h
  cases new <;> simp

/-- Settles O37: by the writes of an edge; a byte stops the sequence exactly when it is not zero. -/
theorem stoppedFlagWriters : Obligations.StoppedFlagWriters := by
  intro s t e rest hs h
  have hzero : ∀ b : Byte, stopsSequence b = true ↔ b.toNat ≠ 0 := fun b => by
    simp [stopsSequence_eq, ← BitVec.toNat_inj]
  cases step_effect hs h with
  | reset hr => exact ⟨fun _ hset => by simp at hset, fun _ _ => .inl hr⟩
  | unchanged hr => exact flag_unwritten rfl
  | illegal hr hv hd herr => exact flag_unwritten rfl
  | command hr hv hw hx =>
    cases hx with
    | start herr => exact ⟨fun _ hset => by simp at hset, fun _ _ => .inr ⟨hv, .inr ⟨herr, .inl hw⟩⟩⟩
    | clrerr => exact ⟨fun _ hset => by simp at hset, fun _ _ => .inr ⟨hv, .inl hw⟩⟩
    | overlong | latch | setreq => exact flag_unwritten rfl
    | accumulate b herr hgo hroom =>
      obtain ⟨hop, hb, -⟩ := byte_word_fields (k := 0x20) (hw ▸ encode_byte_toNat b)
      refine ⟨fun _ hset => ⟨hr, hv, herr, .inl hop, ?_⟩, fun hstop => absurd (hgo.symm.trans hstop) (by simp)⟩
      rw [hb, ← hzero]
      rwa [State.accumulate, State.setStopped_stopped, hgo, Bool.false_or] at hset
    | bytef b herr =>
      obtain ⟨hop, hb, -⟩ := byte_word_fields (k := 0x30) (hw ▸ encode_bytef_toNat b)
      refine ⟨fun _ hset => ⟨hr, hv, herr, .inr hop, by rwa [hb, ← hzero]⟩, fun _ hclr => ?_⟩
      have hb0 : b = 0x00#8 := by simpa [stopsSequence_eq] using hclr
      exact .inr ⟨hv, .inr ⟨herr, .inr (by rw [hw, hb0]; rfl)⟩⟩

/-- What is written into `count` has `COUNT_W` bits (R3, log 5). -/
theorem State.setCount_lt (s : State) (v : Nat) : (s.setCount v).count.toNat < 2 ^ Config.countW s.maxLen := by
  rw [State.setCount_count, BitVec.toNat_ofNat]
  exact (Nat.mod_le _ _).trans_lt (Nat.mod_lt _ (Nat.two_pow_pos _))

/-- The count fits the register's width. -/
def State.CountFits (s : State) : Prop := s.count.toNat < 2 ^ Config.countW s.maxLen

theorem State.countFits_of_count_zero {s : State} (h : s.count = 0#12) : s.CountFits := by
  rw [State.CountFits, h]
  exact Nat.two_pow_pos _

theorem EdgeEffect.countFits {e : Inputs} {s t : State} (he : EdgeEffect e s t) (hfit : s.CountFits) :
    t.CountFits := by
  cases he with
  | reset hr => exact State.countFits_of_count_zero (by simp)
  | unchanged hr => exact hfit
  | illegal hr hv hd herr => exact hfit
  | command hr hv hw hx =>
    cases hx with
    | start | clrerr => exact State.countFits_of_count_zero (by simp)
    | overlong | latch | setreq => exact hfit
    | accumulate | bytef => exact s.setCount_lt _

/-- Settles O56: every write of the count is one of `COUNT_W` bits, and no edge widens what stands there. -/
theorem countStaysInItsWidth : Obligations.CountStaysInItsWidth :=
  fun _ _ => step_keeps (P := State.CountFits) (fun _ _ hP => hP) fun _ _ _ he hP => he.countFits hP

end Sys2Proof.Machine
end

section
/-! The outputs of a cycle, and that nothing but the registers stands behind them (spec/10_state.md R10, R20, R22). -/
namespace Sys2Proof.Machine

theorem byteOf_eq_ofNat (w : CmdWord) : byteOf w = BitVec.ofNat 8 w.toNat := by
  rw [← BitVec.toNat_inj, byteOf_toNat, BitVec.toNat_ofNat]

/-- The `lzb` output has room for every count of a byte. -/
theorem State.outputs_lzb_toNat (s : State) (e : Inputs) : (s.outputs e).lzb.toNat = lzb (byteOf e.cmd) := by
  have hle := lzb_le (byteOf e.cmd)
  simp only [State.outputs, BitVec.toNat_ofNat]
  omega

/-- Settles O40: all outputs but `lzb` are registers or the comparator over them; `lzb` reads `cmd[7:0]` as a byte. -/
theorem outputsOfACycle : Obligations.OutputsOfACycle := by
  refine ⟨fun s e => ⟨rfl, rfl, rfl, rfl, rfl, ?_, ?_⟩, fun _ _ _ => rfl, fun s s' e e' h => ?_⟩
  · simp [State.outputs, State.pass]
  · rw [State.outputs_lzb_toNat, byteOf_eq_ofNat]
  · have hbyte : byteOf e.cmd = byteOf e'.cmd := by rwa [← BitVec.toNat_inj, byteOf_toNat, byteOf_toNat]
    rw [← BitVec.toNat_inj, State.outputs_lzb_toNat, State.outputs_lzb_toNat, hbyte]

theorem ErrCause.code_inj {c d : ErrCause} (h : c.code = d.code) : c = d := by
  cases c <;> cases d <;> simp_all [ErrCause.code]

/-- The registers and the parameter are the whole state but for the inputs to come (R10, R20). -/
theorem State.eq_setScript_of_regs {s₁ s₂ : State} (hlen : s₁.maxLen = s₂.maxLen) (hregs : s₁.regs = s₂.regs) :
    s₂ = s₁.setScript s₂.script := by
  simp only [State.regs, Spec.Regs.mk.injEq, BitVec.toNat_inj] at hregs
  obtain ⟨hcount, hstop, hreq, herr, hcause⟩ := hregs
  simp [State.setScript, hlen, hcount, hstop, hreq, herr, ErrCause.code_inj hcause]

/-- No edge reads the inputs of the later ones (log 1). -/
theorem clockEdge_setScript {e : Inputs} {s t : State} (h : clockEdge e s = .next t) (rest : List Inputs) :
    clockEdge e (s.setScript rest) = .next (t.setScript rest) := by
  cases hr : e.rst with
  | true => rw [clockEdge_rst _ hr] at h ⊢; cases h; rfl
  | false =>
    cases hv : e.cmdValid with
    | false => rw [clockEdge_idle _ hr hv] at h ⊢; cases h; rfl
    | true =>
      rw [clockEdge_word _ hr hv] at h ⊢
      cases hd : decode e.cmd with
      | ok i => rw [runWord_ok _ hd] at h ⊢; exact exec_setScript h rest
      | error d =>
        rw [runWord_error _ hd] at h ⊢
        cases h
        exact congrArg Host.Outcome.next (State.whenRunning_setScript s (s.raiseError .illegalCmd) rest)

/-- Settles O38: two blocks with equal registers differ in the inputs to come at most, and an edge carries that
difference over unread. -/
theorem noHiddenState : Obligations.NoHiddenState := by
  intro s₁ s₂ e rest₁ rest₂ hadm hlen hregs hs₁ hs₂
  have hs : s₂ = s₁.setScript s₂.script := State.eq_setScript_of_regs hlen hregs
  obtain ⟨t, ht, -⟩ := clockEdge_is_next e (s₁.setScript rest₁)
  have hstep₂ : step s₂ = clockEdge e ((s₁.setScript rest₁).setScript rest₂) := by
    rw [step_cons (hlen ▸ hadm) hs₂, hs]; rfl
  exact ⟨by rw [hs]; rfl, t, t.setScript rest₂, (step_cons hadm hs₁).trans ht,
    hstep₂.trans (clockEdge_setScript ht rest₂), rfl, fun _ => rfl⟩

end Sys2Proof.Machine
end

section
/-! The decoder against the encoder and the opcode map (spec/30_encoding.md R41 to R46): the encoder is its inverse
on commands, `legal(cmd)` its domain, and the two kinds of illegal word are told apart by the word's number. -/
namespace Sys2Proof

/-- Every command is read back from its own word: the word is that of a script line, which the laws decode. -/
theorem decode_encode (i : Instr) : decode (encode i) = .ok i := by
  cases i with
  | nop | start | latch | clrerr => decide
  | byte b =>
    simpa only [← encode_byte_toNat, BitVec.ofNat_toNat, BitVec.setWidth_eq] using
      Machine.decode_byte_line (Nat.le_of_lt_succ b.isLt)
  | bytef b =>
    simpa only [← encode_bytef_toNat, BitVec.ofNat_toNat, BitVec.setWidth_eq] using
      Machine.decode_bytef_line (Nat.le_of_lt_succ b.isLt)
  | setreq n =>
    simpa only [← encode_setreq_toNat, BitVec.ofNat_toNat, BitVec.setWidth_eq] using
      Machine.decode_setreq_line (Nat.le_of_lt_succ n.isLt)

/-- The decoder reads a command from its own word and from no other (R42). -/
theorem decode_eq_ok_iff (w : CmdWord) (i : Instr) : decode w = .ok i ↔ w.toNat = (encode i).toNat :=
  ⟨fun h => congrArg BitVec.toNat (eq_encode_of_decode h), fun h => BitVec.eq_of_toNat_eq h ▸ decode_encode i⟩

/-- The words of R46, by their numbers: a defined opcode and a nonzero reserved bit. -/
abbrev HasReservedBits (w : Nat) : Prop :=
  ((w / 4096 = 0 ∨ w / 4096 = 1 ∨ w / 4096 = 4 ∨ w / 4096 = 6) ∧ w % 4096 ≠ 0) ∨
  ((w / 4096 = 2 ∨ w / 4096 = 3) ∧ w / 256 % 16 ≠ 0)

theorem formatZ_eq_error {i : Instr} {w : CmdWord} {d : DecodeError} (h : formatZ i w = .error d) :
    d = .reservedBits (opcodeOf w) ∧ w.toNat % 4096 ≠ 0 := by
  rw [formatZ_eq] at h
  split_ifs at h with hz
  exact ⟨(Except.error.inj h).symm, hz⟩

theorem formatB_eq_error {f : Byte → Instr} {w : CmdWord} {d : DecodeError} (h : formatB f w = .error d) :
    d = .reservedBits (opcodeOf w) ∧ w.toNat / 256 % 16 ≠ 0 := by
  rw [formatB_eq] at h
  split_ifs at h with hz
  exact ⟨(Except.error.inj h).symm, hz⟩

/-- Why the decoder rejects a word: a reserved opcode (R45), or a reserved bit of a defined one (R46). -/
theorem decode_error_cases {w : CmdWord} {d : DecodeError} (h : decode w = .error d) :
    (7 ≤ w.toNat / 4096 ∧ d = .reservedOpcode (opcodeOf w)) ∨
    (HasReservedBits w.toNat ∧ d = .reservedBits (opcodeOf w)) := by
  rw [decode_eq] at h
  split_ifs at h with h0 h1 h2 h3 h4 h5 h6
  · obtain ⟨rfl, hz⟩ := formatZ_eq_error h
    exact .inr ⟨.inl ⟨by omega, hz⟩, rfl⟩
  · obtain ⟨rfl, hz⟩ := formatZ_eq_error h
    exact .inr ⟨.inl ⟨by omega, hz⟩, rfl⟩
  · obtain ⟨rfl, hz⟩ := formatB_eq_error h
    exact .inr ⟨.inr ⟨by omega, hz⟩, rfl⟩
  · obtain ⟨rfl, hz⟩ := formatB_eq_error h
    exact .inr ⟨.inr ⟨by omega, hz⟩, rfl⟩
  · obtain ⟨rfl, hz⟩ := formatZ_eq_error h
    exact .inr ⟨.inl ⟨by omega, hz⟩, rfl⟩
  · cases h
  · obtain ⟨rfl, hz⟩ := formatZ_eq_error h
    exact .inr ⟨.inl ⟨by omega, hz⟩, rfl⟩
  · exact .inl ⟨by omega, (Except.error.inj h).symm⟩

/-- The word of every command is legal (R44). -/
theorem legal_encode (i : Instr) : Spec.Legal (encode i).toNat := by
  cases i with
  | nop | start | latch | clrerr => decide
  | byte b =>
    have hb := b.isLt
    rw [encode_byte_toNat]
    exact .inr (.inl (by omega))
  | bytef b =>
    have hb := b.isLt
    rw [encode_bytef_toNat]
    exact .inr (.inl (by omega))
  | setreq n =>
    have hn := n.isLt
    rw [encode_setreq_toNat]
    exact .inr (.inr (by omega))

theorem legal_of_decode {w : CmdWord} {i : Instr} (h : decode w = .ok i) : Spec.Legal w.toNat :=
  eq_encode_of_decode h ▸ legal_encode i

theorem not_legal_of_decode_error {w : CmdWord} {d : DecodeError} (h : decode w = .error d) :
    ¬ Spec.Legal w.toNat := by
  obtain ⟨hop, -⟩ | ⟨hbits, -⟩ := decode_error_cases h <;> omega

theorem exists_decode_iff_legal (w : CmdWord) : (∃ i : Instr, decode w = .ok i) ↔ Spec.Legal w.toNat := by
  refine ⟨fun ⟨_, h⟩ => legal_of_decode h, fun hlegal => ?_⟩
  cases h : decode w with
  | ok i => exact ⟨i, rfl⟩
  | error d => exact absurd hlegal (not_legal_of_decode_error h)

theorem exists_decode_error {w : CmdWord} (h : ¬ Spec.Legal w.toNat) : ∃ d, decode w = .error d := by
  cases hd : decode w with
  | ok i => exact absurd (legal_of_decode hd) h
  | error d => exact ⟨d, rfl⟩

theorem opcodeOf_eq_ofNat (w : CmdWord) : opcodeOf w = BitVec.ofNat 4 (w.toNat / 4096) := by
  rw [← opcodeOf_toNat, BitVec.ofNat_toNat, BitVec.setWidth_eq]

theorem decode_of_reservedOpcode {w : CmdWord} (h : 7 ≤ w.toNat / 4096) :
    decode w = .error (.reservedOpcode (BitVec.ofNat 4 (w.toNat / 4096))) := by
  obtain ⟨d, hd⟩ := exists_decode_error (w := w) (by omega)
  obtain ⟨-, rfl⟩ | ⟨hbits, -⟩ := decode_error_cases hd
  · rw [hd, opcodeOf_eq_ofNat]
  · omega

theorem decode_of_hasReservedBits {w : CmdWord} (h : HasReservedBits w.toNat) :
    decode w = .error (.reservedBits (BitVec.ofNat 4 (w.toNat / 4096))) := by
  obtain ⟨d, hd⟩ := exists_decode_error (w := w) (by omega)
  obtain ⟨hop, -⟩ | ⟨-, rfl⟩ := decode_error_cases hd
  · omega
  · rw [hd, opcodeOf_eq_ofNat]

/-- The legal words as R44 counts them: four of format Z, twice 256 of format B, 4096 of format N. -/
def legalNumbers : Finset Nat :=
  (({0x0000, 0x1000, 0x4000, 0x6000} ∪ Finset.Ico 0x2000 0x2100) ∪ Finset.Ico 0x3000 0x3100) ∪
    Finset.Ico 0x5000 0x6000

theorem filter_legal_eq : (Finset.range 65536).filter (fun w : Nat => Spec.Legal w) = legalNumbers := by
  ext w
  simp only [legalNumbers, Finset.mem_filter, Finset.mem_range, Finset.mem_union, Finset.mem_insert,
    Finset.mem_singleton, Finset.mem_Ico]
  omega

theorem card_legalNumbers : legalNumbers.card = 4612 := by
  have hformatN : Disjoint (({0x0000, 0x1000, 0x4000, 0x6000} ∪ Finset.Ico 0x2000 0x2100) ∪
      Finset.Ico 0x3000 0x3100) (Finset.Ico 0x5000 0x6000) := by
    simp [Finset.disjoint_left]; omega
  have hbytef : Disjoint ({0x0000, 0x1000, 0x4000, 0x6000} ∪ Finset.Ico 0x2000 0x2100)
      (Finset.Ico 0x3000 0x3100) := by
    simp [Finset.disjoint_left]; omega
  have hbyte : Disjoint {0x0000, 0x1000, 0x4000, 0x6000} (Finset.Ico 0x2000 0x2100) := by
    simp [Finset.disjoint_left]
  rw [legalNumbers, Finset.card_union_of_disjoint hformatN, Finset.card_union_of_disjoint hbytef,
    Finset.card_union_of_disjoint hbyte, Nat.card_Ico, Nat.card_Ico, Nat.card_Ico]
  rfl

/-- Of the numbers below a bound, the illegal ones are those left over. The bound is a variable, so that no check of
this lemma enumerates the words. -/
theorem card_filter_not_legal (n : Nat) : ((Finset.range n).filter (fun w : Nat => ¬ Spec.Legal w)).card =
    n - ((Finset.range n).filter (fun w : Nat => Spec.Legal w)).card := by
  rw [Finset.filter_not, Finset.card_sdiff_of_subset (Finset.filter_subset _ _), Finset.card_range]

/-- Presented while `err = 0`, a word that spells no command makes the error entry and nothing else (R86, R89). -/
theorem raisesIllegalCmd_of_decode_error {w : CmdWord} {d : DecodeError} (h : decode w = .error d) :
    Machine.RaisesIllegalCmd w := by
  intro s rest hadm herr hs
  have hrun : (s.setScript rest).err = false := herr
  rw [Machine.step_cons hadm hs, Machine.clockEdge_word _ rfl rfl, Machine.Inputs.command_cmd,
    Machine.runWord_error _ h, Machine.State.whenRunning_of_running _ hrun]
  rfl

/-- Settles O4: the decoder is a left inverse of the encoder. -/
theorem decodeOfEncode : Obligations.DecodeOfEncode :=
  decode_encode

/-- Settles O5: the encoder's words are the map's, and the decoder reads a command from its own word alone. -/
theorem opcodeMapComplete : Obligations.OpcodeMapComplete := by
  intro w i
  rw [decode_eq_ok_iff]
  cases i with
  | nop | start | latch | clrerr => simp [encode]
  | byte b => simp [encode_byte_toNat]
  | bytef b => simp [encode_bytef_toNat]
  | setreq n => simp [encode_setreq_toNat]

/-- Settles O6: the decoder rejects exactly the words of R45 and R46; the counts are those of the rule's three
formats and of the complement. -/
theorem legalWords : Obligations.LegalWords := by
  have hcard : ((Finset.range 65536).filter (fun w : Nat => Spec.Legal w)).card = 4612 := by
    rw [filter_legal_eq, card_legalNumbers]
  exact ⟨exists_decode_iff_legal, hcard, by rw [card_filter_not_legal, hcard]⟩

/-- Settles O7: no opcode from 7 up is legal, and every word the decoder rejects raises ILLEGAL_CMD. -/
theorem reservedOpcodesIllegal : Obligations.ReservedOpcodesIllegal := by
  intro w hop
  have hd := decode_of_reservedOpcode hop
  exact ⟨hd, raisesIllegalCmd_of_decode_error hd⟩

/-- Settles O8: as O7, for the words of R46. -/
theorem reservedBitsIllegal : Obligations.ReservedBitsIllegal := by
  intro w hbits
  have hd := decode_of_hasReservedBits hbits
  exact ⟨hd, raisesIllegalCmd_of_decode_error hd⟩

/-- Settles O9: each word is the encoding of its command. -/
theorem writtenWordsDecode : Obligations.WrittenWordsDecode :=
  ⟨decode_encode .nop, decode_encode .start, decode_encode (.byte 0x0F#8), decode_encode (.bytef 0x01#8),
    decode_encode .latch, decode_encode (.setreq 13#12), decode_encode (.setreq 4095#12), decode_encode .clrerr⟩

end Sys2Proof
end

section
/-! The step against the pseudocode of spec/30_encoding.md R48: each write and each command makes on the numbers of
the registers what the rule's `Spec` function does. -/
namespace Sys2Proof

theorem Spec.zeros_toNat : ∀ b : Byte, Spec.zeros b.toNat = Machine.lzb b := by decide

/-- The last case of R60 in one record: the byte stops the sequence exactly when it has a 1 bit. -/
theorem Spec.byte_of_room {m : Nat} {r : Spec.Regs} (b : Byte) (hgo : r.stopped = false) (hroom : r.count ≠ 8 * m) :
    Spec.byte m r b.toNat =
      { r with count := r.count + Machine.lzb b, stopped := decide (Machine.lzb b < 8) } := by
  rw [Spec.byte, if_neg (by simp [hgo]), if_neg hroom, Spec.zeros_toNat]
  split_ifs with hstops
  · rw [decide_eq_true hstops]
  · rw [decide_eq_false hstops, ← hgo]

/-- The pseudocode takes a BYTE word to the rule of BYTE with the word's byte. -/
theorem Spec.command_byte (m : Nat) (r : Spec.Regs) (b : Byte) :
    Spec.command m r (0x2000 + b.toNat) = Spec.byte m r b.toNat := by
  have hb := b.isLt
  have hop : (0x2000 + b.toNat) / 4096 = 2 := by omega
  have hlow : (0x2000 + b.toNat) % 256 = b.toNat := by omega
  simp only [Spec.command, hop, hlow]

theorem Spec.command_bytef (m : Nat) (r : Spec.Regs) (b : Byte) :
    Spec.command m r (0x3000 + b.toNat) =
      { r with count := Machine.lzb b, stopped := decide (Machine.lzb b < 8) } := by
  have hb := b.isLt
  have hop : (0x3000 + b.toNat) / 4096 = 3 := by omega
  have hlow : (0x3000 + b.toNat) % 256 = b.toNat := by omega
  simp only [Spec.command, hop, hlow, Spec.zeros_toNat]

theorem Spec.command_setreq (m : Nat) (r : Spec.Regs) (n : Number) :
    Spec.command m r (0x5000 + n.toNat) = { r with required := n.toNat } := by
  have hn := n.isLt
  have hop : (0x5000 + n.toNat) / 4096 = 5 := by omega
  have hlow : (0x5000 + n.toNat) % 4096 = n.toNat := by omega
  simp only [Spec.command, hop, hlow]

/-- The pseudocode on a word presented to a frozen block. -/
theorem Spec.step_word_of_err (m : Nat) {r : Spec.Regs} (w : Nat) (herr : r.err = true) :
    Spec.step m r false true w = if w = 0x6000 then Spec.clrerr r else r := by
  simp [Spec.step, herr]

/-- The pseudocode on a word presented to a running block. -/
theorem Spec.step_word_of_running (m : Nat) {r : Spec.Regs} (w : Nat) (herr : r.err = false) :
    Spec.step m r false true w = if Spec.Legal w then Spec.command m r w else Spec.errorEntry r 1 := by
  simp only [Spec.step, herr, Bool.not_true, Bool.false_eq_true, if_false, ite_not]

theorem encode_injective : Function.Injective encode := fun i j h =>
  Except.ok.inj (by rw [← decode_encode i, h, decode_encode])

theorem encode_toNat_eq_clrerr_iff {i : Instr} : (encode i).toNat = 0x6000 ↔ i = .clrerr :=
  ⟨fun h => encode_injective (BitVec.eq_of_toNat_eq h), fun h => h ▸ rfl⟩

namespace Machine

/-! What each writer makes of the numbers. -/

theorem State.regs_setStopped (s : State) (v : Bool) :
    (s.setStopped v).regs = { s.regs with stopped := v } := rfl

theorem State.regs_setRequired (s : State) (n : Number) :
    (s.setRequired n).regs = { s.regs with required := n.toNat } := rfl

theorem State.regs_setCount {s : State} {v : Nat} (hadm : Config.Admitted s.maxLen) (hv : v ≤ s.countMax) :
    (s.setCount v).regs = { s.regs with count := v } := by
  obtain ⟨hset, hval⟩ := State.setCount_of_le hadm hv
  simp only [hset, State.regs, hval]

theorem State.regs_raiseError (s : State) (c : ErrCause) :
    (s.raiseError c).regs = Spec.errorEntry s.regs c.code.toNat := rfl

theorem State.regs_startSequence (s : State) :
    s.startSequence.regs = { s.regs with count := 0, stopped := false } := by
  rw [State.startSequence_eq]; rfl

theorem State.regs_leaveError (s : State) : s.leaveError.regs = Spec.clrerr s.regs := by
  rw [State.leaveError_eq]; rfl

theorem State.regs_resetRegisters (s : State) : s.resetRegisters.regs = Spec.resetRegs := by
  rw [State.resetRegisters_eq]; rfl

/-- BYTE's three cases are the rule's; the invariant gives the third room for its sum (R60, R65). -/
theorem State.regs_feedByte {s : State} (hinv : s.Inv) (b : Byte) :
    (s.feedByte b).regs = Spec.byte s.maxLen s.regs b.toNat := by
  unfold State.feedByte
  split_ifs with hstop hfull
  · exact (if_pos hstop).symm
  · exact ((if_neg hstop).trans (if_pos hfull)).symm
  · have hgo : s.stopped = false := by simpa using hstop
    obtain ⟨-, hroom⟩ := hinv.room hgo hfull
    have hsum : s.count.toNat + lzb b ≤ s.countMax := by have := lzb_le b; omega
    rw [State.accumulate, State.regs_setStopped, State.regs_setCount hinv.1 hsum, hgo, Bool.false_or, stopsSequence,
      Spec.byte_of_room b hgo hfull]
    rfl

/-- Outside the error state a command does what the pseudocode's last branch does with the command's word. -/
theorem exec_regs_of_running {s t : State} {i : Instr} (hinv : s.Inv) (herr : s.err = false)
    (h : exec i s = .next t) : t.regs = Spec.command s.maxLen s.regs (encode i).toNat := by
  cases i <;> cases h
  case nop => rfl
  case start => rw [State.whenRunning_of_running _ herr, State.regs_startSequence]; rfl
  case byte b =>
    rw [State.whenRunning_of_running _ herr, State.regs_feedByte hinv, encode_byte_toNat, Spec.command_byte]
  case bytef b =>
    have hle : lzb b ≤ s.countMax := (lzb_le b).trans hinv.eight_le_countMax
    rw [State.whenRunning_of_running _ herr, State.regs_setStopped, State.regs_setCount hinv.1 hle,
      encode_bytef_toNat, Spec.command_bytef]
    rfl
  case latch => rw [State.whenRunning_of_running _ herr, State.regs_setRequired]; rfl
  case setreq n =>
    rw [State.whenRunning_of_running _ herr, State.regs_setRequired, encode_setreq_toNat, Spec.command_setreq]
  case clrerr => exact s.regs_leaveError

/-- In the error state every command but CLRERR is ignored (R90). -/
theorem exec_of_err {s : State} {i : Instr} (herr : s.err = true) (hi : i ≠ .clrerr) : exec i s = .next s := by
  cases i with
  | nop => rfl
  | clrerr => exact absurd rfl hi
  | _ => exact congrArg Host.Outcome.next (State.whenRunning_of_err _ herr)

theorem exec_regs_of_err {s t : State} {i : Instr} (herr : s.err = true) (h : exec i s = .next t) :
    t.regs = if (encode i).toNat = 0x6000 then Spec.clrerr s.regs else s.regs := by
  by_cases hi : i = .clrerr
  · rw [if_pos (encode_toNat_eq_clrerr_iff.2 hi)]
    subst hi
    cases h
    exact s.regs_leaveError
  · rw [if_neg (mt encode_toNat_eq_clrerr_iff.1 hi)]
    rw [exec_of_err herr hi] at h
    cases h
    rfl

/-- R48 for the registers, in the order of its cases. -/
theorem clockEdge_regs {e : Inputs} {s t : State} (hinv : s.Inv) (h : clockEdge e s = .next t) :
    t.regs = Spec.step s.maxLen s.regs e.rst e.cmdValid e.cmd.toNat := by
  obtain ⟨hr, he⟩ | ⟨hr, hv, he⟩ | ⟨hr, hv, i, hd, he⟩ | ⟨hr, hv, d, hd, he⟩ := clockEdge_cases e s <;>
    rw [he] at h <;> rw [hr]
  · cases h
    exact s.regs_resetRegisters
  · cases h
    rw [hv]
    rfl
  · rw [hv]
    cases herr : s.err with
    | true => rw [Spec.step_word_of_err _ _ herr, eq_encode_of_decode hd, exec_regs_of_err herr h]
    | false =>
      rw [Spec.step_word_of_running _ _ herr, if_pos (legal_of_decode hd), eq_encode_of_decode hd,
        exec_regs_of_running hinv herr h]
  · cases h
    rw [hv]
    have hillegal := not_legal_of_decode_error hd
    cases herr : s.err with
    | true =>
      have hword : e.cmd.toNat ≠ 0x6000 := fun hc => hillegal (hc ▸ legal_encode .clrerr)
      rw [Spec.step_word_of_err _ _ herr, if_neg hword, State.whenRunning_of_err _ herr]
    | false =>
      rw [Spec.step_word_of_running _ _ herr, if_neg hillegal, State.whenRunning_of_running _ herr]
      exact s.regs_raiseError .illegalCmd

/-- Settles O11: the edge of the head of the host's inputs, on registers that the others do not enter. -/
theorem stepRefinesPseudocode : Obligations.StepRefinesPseudocode := by
  intro s e rest hinv hs
  obtain ⟨t, ht, hlen, hscript⟩ := clockEdge_is_next e (s.setScript rest)
  exact ⟨t, (step_cons hinv.1 hs).trans ht, hlen, hscript, clockEdge_regs (s := s.setScript rest) hinv ht⟩

/-- Settles O10: the step samples the head of the inputs, and the decoder picks the command. -/
theorem stepRunsDecodedCommand : Obligations.StepRunsDecodedCommand := by
  intro s e rest i hadm hs hr hv hd
  rw [step_cons hadm hs, clockEdge_word _ hr hv, runWord_ok _ hd]
  rfl

/-- Settles O12: RESET, idle, a command and an illegal word each have a next state. -/
theorem everyEdgeHasNextState : Obligations.EveryEdgeHasNextState :=
  fun _ => step_is_next

end Machine
end Sys2Proof
end

section
/-! Idle cycles, and the two ways to begin a sequence with a byte (spec/30_encoding.md R47, R50). -/
namespace Sys2Proof.Machine

theorem runs_idle {s : State} {ws : List CmdWord} {rest : List Inputs} (hadm : Config.Admitted s.maxLen)
    (hs : s.script = driven (ws.map .idle) ++ rest) : runs ws.length s = .next (s.setScript rest) := by
  induction ws generalizing s with
  | nil =>
    obtain rfl : s.script = rest := hs
    rfl
  | cons w ws ih =>
    have hstep : step s = .next (s.setScript (driven (ws.map .idle) ++ rest)) := step_idle_line hadm hs
    calc runs (ws.length + 1) s = runs ws.length (s.setScript (driven (ws.map .idle) ++ rest)) :=
          runs_succ_of_step _ hstep
      _ = .next (s.setScript rest) := ih (s := s.setScript (driven (ws.map .idle) ++ rest)) hadm rfl

/-- Settles O13: each idle line passes, as a NOP does; the `lzb` output does not read `cmd_valid`. -/
theorem idleCyclesChangeNothing : Obligations.IdleCyclesChangeNothing := by
  refine ⟨fun s ws rest hadm hs => runs_idle hadm hs, fun s w rest hadm => ?_, fun s w => ?_⟩
  · have hidle := step_idle_line (s := s.setScript (Line.inputs (.idle w) :: rest)) hadm rfl
    have hnop := step_command_line (s := s.setScript (Line.inputs .nop :: rest)) (l := .nop) hadm rfl rfl rfl
    exact hidle.trans hnop.symm
  · have hbyte : byteOf w = BitVec.ofNat 8 (w.toNat % 256) := by
      rw [← byteOf_toNat, BitVec.ofNat_toNat, BitVec.setWidth_eq]
    rw [State.outputs_lzb_toNat, ← hbyte]
    rfl

/-- BYTEF is START and then BYTE: the sequence is empty, so the byte finds room (R61). -/
theorem exec_bytef_eq_start_byte {s : State} (b : Byte) (hadm : Config.Admitted s.maxLen) (herr : s.err = false) :
    exec (.bytef b) s = exec (.byte b) s.startSequence := by
  have height : 8 ≤ s.countMax := Nat.mul_le_mul_left 8 hadm.1
  obtain ⟨hbyte, -⟩ := exec_byte_of_room (s := { s with count := 0#12, stopped := false }) b hadm herr rfl
    ((Nat.zero_add 8).trans_le height)
  rw [State.startSequence_eq, hbyte, exec, execBytef, State.whenRunning_of_running _ herr,
    (State.setCount_of_le hadm ((lzb_le b).trans height)).1, stopsSequence_eq]
  simp [State.setStopped]

theorem step_start_line {s : State} {rest : List Inputs} (hadm : Config.Admitted s.maxLen) (herr : s.err = false)
    (hs : s.script = Line.inputs .start :: rest) : step s = .next (s.setScript rest).startSequence :=
  (step_command_line (l := .start) hadm rfl rfl hs).trans
    (congrArg Host.Outcome.next (State.whenRunning_of_running _ herr))

/-- The line of a byte of a list runs BYTE of that byte. -/
theorem step_byte_operand {s : State} (b : Byte) {rest : List Inputs} (hadm : Config.Admitted s.maxLen)
    (hs : s.script = Line.inputs (.byte b.toNat) :: rest) : step s = exec (.byte b) (s.setScript rest) :=
  step_command_line (l := .byte b.toNat) hadm (decide_eq_true (Nat.le_of_lt_succ b.isLt)) (by simp [Line.command]) hs

theorem step_bytef_operand {s : State} (b : Byte) {rest : List Inputs} (hadm : Config.Admitted s.maxLen)
    (hs : s.script = Line.inputs (.bytef b.toNat) :: rest) : step s = exec (.bytef b) (s.setScript rest) :=
  step_command_line (l := .bytef b.toNat) hadm (decide_eq_true (Nat.le_of_lt_succ b.isLt)) (by simp [Line.command]) hs

/-- One edge with BYTEF goes on as two with START and BYTE do, before the same inputs. -/
theorem runs_start_byte_eq_runs_bytef {s : State} (b : Byte) (k : Nat) (later : List Inputs)
    (hadm : Config.Admitted s.maxLen) (herr : s.err = false) :
    runs (k + 2) (s.setScript (Line.inputs .start :: Line.inputs (.byte b.toNat) :: later)) =
      runs (k + 1) (s.setScript (Line.inputs (.bytef b.toNat) :: later)) := by
  have hstart := step_start_line (s := s.setScript (Line.inputs .start :: Line.inputs (.byte b.toNat) :: later))
    hadm herr rfl
  have hbyte := step_byte_operand (s := (s.setScript (Line.inputs (.byte b.toNat) :: later)).startSequence) b hadm rfl
  have hbytef := step_bytef_operand (s := s.setScript (Line.inputs (.bytef b.toNat) :: later)) b hadm rfl
  have hsame := exec_bytef_eq_start_byte (s := s.setScript later) b hadm herr
  obtain ⟨t, ht⟩ := exec_is_next (.bytef b) (s.setScript later)
  calc runs (k + 2) _ = runs (k + 1) _ := runs_succ_of_step _ hstart
    _ = runs k t := runs_succ_of_step _ (hbyte.trans (hsame.symm.trans ht))
    _ = runs (k + 1) _ := (runs_succ_of_step _ (hbytef.trans ht)).symm

/-- Settles O49: SEQ begins with START and BYTE where SEQF begins with BYTEF, and the lines after them are the same;
the run has an end, over-long or not. -/
theorem seqfLeavesSameState : Obligations.SeqfLeavesSameState := by
  intro s bs rest hinv herr hne
  obtain ⟨b, bs, rfl⟩ := List.exists_cons_of_ne_nil hne
  have hinv' : (s.setScript (driven (Pseudo.seqf (operands (b :: bs))).lines ++ rest)).Inv := hinv
  obtain ⟨t, ht, -⟩ := runs_keeps_inv (Pseudo.seqf (operands (b :: bs))).lines.length hinv'
  exact ⟨t, (runs_start_byte_eq_runs_bytef b _ _ hinv.1 herr).trans ht, ht⟩

end Sys2Proof.Machine
end

section
/-! The counting functions (spec/40_sequence_commands.md R55 to R57): the table of `lzb`, the laws of `lzs`, and both
as the plain leading-zero count of a bit string (R63, R64). -/
namespace Sys2Proof.Machine

theorem lzb_eq_leadingZeroBits : ∀ b : Byte, lzb b = leadingZeroBits (bitsOf b) := by decide

theorem lzb_lt_eight_iff (b : Byte) : lzb b < 8 ↔ b ≠ 0x00#8 := by
  have hle := lzb_le b
  rw [Ne, ← lzb_eq_eight_iff]
  omega

theorem true_mem_bitsOf_iff : ∀ b : Byte, true ∈ bitsOf b ↔ lzb b < 8 := by decide

/-- The last column of R56's table, where the byte has a logarithm. -/
theorem lzb_eq_seven_sub_log2 : ∀ b : Byte, b ≠ 0x00#8 → lzb b = 7 - Nat.log2 b.toNat := by decide

/-- The count of leading zero bits goes on into a second string exactly when the first has no 1 bit. -/
theorem leadingZeroBits_append (xs ys : List Bool) :
    leadingZeroBits (xs ++ ys) =
      if true ∈ xs then leadingZeroBits xs else xs.length + leadingZeroBits ys := by
  induction xs with
  | nil => simp
  | cons x xs ih =>
    cases x with
    | true => simp [leadingZeroBits]
    | false =>
      simp only [List.cons_append, leadingZeroBits, ih, List.mem_cons, Bool.true_eq_false, false_or, List.length_cons]
      split_ifs <;> omega

theorem leadingZeroBits_of_not_mem {xs : List Bool} (h : true ∉ xs) : leadingZeroBits xs = xs.length := by
  simpa [h, leadingZeroBits] using leadingZeroBits_append xs []

theorem length_flatMap_bitsOf (bs : List Byte) : (bs.flatMap bitsOf).length = 8 * bs.length := by
  simp [List.length_flatMap, bitsOf, Nat.mul_comm]

theorem lzs_eq_leadingZeroBits (bs : List Byte) : lzs bs = leadingZeroBits (bs.flatMap bitsOf) := by
  induction bs with
  | nil => rfl
  | cons b bs ih =>
    have hbits : (bitsOf b).length = 8 := rfl
    simp only [lzs, List.flatMap_cons, leadingZeroBits_append, true_mem_bitsOf_iff, ← lzb_eq_leadingZeroBits, hbits,
      ih]

theorem lzs_zero_cons (bs : List Byte) : lzs (0x00#8 :: bs) = 8 + lzs bs := rfl

theorem lzs_cons_of_ne_zero {b : Byte} (hb : b ≠ 0x00#8) (bs : List Byte) : lzs (b :: bs) = lzb b :=
  if_pos ((lzb_lt_eight_iff b).2 hb)

theorem lzs_replicate_append (n : Nat) (bs : List Byte) :
    lzs (List.replicate n 0x00#8 ++ bs) = 8 * n + lzs bs := by
  induction n with
  | zero => simp
  | succ n ih =>
    rw [List.replicate_succ, List.cons_append, lzs_zero_cons, ih]
    omega

theorem lzs_replicate (n : Nat) : lzs (List.replicate n 0x00#8) = 8 * n := by
  simpa [lzs] using lzs_replicate_append n []

theorem lzs_le (bs : List Byte) : lzs bs ≤ 8 * bs.length := by
  induction bs with
  | nil => exact Nat.zero_le _
  | cons b bs ih =>
    have hle := lzb_le b
    rw [lzs, List.length_cons]
    split_ifs <;> omega

/-- Bytes after a byte with a 1 bit are not counted. -/
theorem lzs_append_of_exists_ne_zero {bs : List Byte} (cs : List Byte) (h : ∃ b ∈ bs, b ≠ 0x00#8) :
    lzs (bs ++ cs) = lzs bs := by
  induction bs with
  | nil => simp at h
  | cons b bs ih =>
    by_cases hb : b = 0x00#8
    · subst hb
      rw [List.cons_append, lzs_zero_cons, lzs_zero_cons, ih (by simpa using h)]
    · rw [List.cons_append, lzs_cons_of_ne_zero hb, lzs_cons_of_ne_zero hb]

theorem leadingZeroBytes_replicate_append (n : Nat) (bs : List Byte) :
    leadingZeroBytes (List.replicate n 0x00#8 ++ bs) = n + leadingZeroBytes bs := by
  rw [leadingZeroBytes, List.takeWhile_append_of_pos (by simp), List.length_append, List.length_replicate]
  rfl

theorem leadingZeroBytes_cons_of_ne_zero {b : Byte} (hb : b ≠ 0x00#8) (bs : List Byte) :
    leadingZeroBytes (b :: bs) = 0 := by
  simp [leadingZeroBytes, hb]

/-- Settles O43: the ranges are those of the pseudocode's table, which the model's `lzb` meets. -/
theorem lzbTable : Obligations.LzbTable := by
  intro b
  refine ⟨lzb_eq_leadingZeroBits b, ?_, ?_, ?_, ?_, ?_, ?_, ?_, ?_, lzb_eq_eight_iff b, lzb_lt_eight_iff b,
    lzb_eq_seven_sub_log2 b⟩ <;>
  · intros
    rw [← Spec.zeros_toNat, Spec.zeros]
    split_ifs <;> omega

/-- Settles O44: each byte gives its eight bits, and a string with no 1 bit is counted whole. -/
theorem lzsIsBitStringCount : Obligations.LzsIsBitStringCount := by
  refine fun bs => ⟨lzs_eq_leadingZeroBits bs, fun hzero => ?_⟩
  rw [lzs_eq_leadingZeroBits, leadingZeroBits_of_not_mem hzero, length_flatMap_bitsOf]

/-- Settles O45: the laws of `lzs` on lists, and BYTE of the zero byte where there is room. -/
theorem lzsLaws : Obligations.LzsLaws := by
  refine ⟨rfl, lzs_replicate, lzs_zero_cons, lzs_le, fun _ cs h => lzs_append_of_exists_ne_zero cs h, lzb_le,
    fun s hinv herr hgo hlt => ?_⟩
  obtain ⟨-, hroom⟩ := hinv.room hgo (Nat.ne_of_lt hlt)
  obtain ⟨hexec, hval⟩ := exec_byte_of_room 0x00#8 hinv.1 herr hgo hroom
  exact ⟨_, hexec, hval⟩

end Sys2Proof.Machine
end

section
/-! The counting commands one by one (spec/40_sequence_commands.md R58 to R61, R65). -/
namespace Sys2Proof

/-- A word of opcode `k` with a reserved bit set spells no command and raises ILLEGAL_CMD (R46). -/
theorem reservedBits_of_opcode {w : CmdWord} {k : Nat} (hop : w.toNat / 4096 = k) (hbits : HasReservedBits w.toNat) :
    decode w = .error (.reservedBits (BitVec.ofNat 4 k)) ∧ Machine.RaisesIllegalCmd w :=
  hop ▸ reservedBitsIllegal w hbits

/-- In format Z every word of the opcode but the command's own has a reserved bit set (R41, R46). -/
theorem reservedBits_of_ne {w : CmdWord} {k : Nat} (hop : w.toNat / 4096 = k) (hk : k = 0 ∨ k = 1 ∨ k = 4 ∨ k = 6)
    (hne : w ≠ BitVec.ofNat 16 (4096 * k)) :
    decode w = .error (.reservedBits (BitVec.ofNat 4 k)) ∧ Machine.RaisesIllegalCmd w := by
  refine reservedBits_of_opcode hop (.inl ⟨hop.symm ▸ hk, fun hzero => hne (BitVec.eq_of_toNat_eq ?_)⟩)
  rw [BitVec.toNat_ofNat]
  omega

/-- In format B the upper digit of the operand is reserved (R41, R46). -/
theorem reservedBits_of_upper {w : CmdWord} {k : Nat} (hop : w.toNat / 4096 = k) (hk : k = 2 ∨ k = 3)
    (hupper : w.toNat / 256 % 16 ≠ 0) :
    decode w = .error (.reservedBits (BitVec.ofNat 4 k)) ∧ Machine.RaisesIllegalCmd w :=
  reservedBits_of_opcode hop (.inr ⟨hop.symm ▸ hk, hupper⟩)

namespace Machine

/-- The empty sequence meets the threshold 0 alone (R59, R72). -/
theorem State.pass_iff_of_count_zero {s : State} (herr : s.err = false) (hcount : s.count = 0#12) :
    s.pass = true ↔ s.required = 0#12 := by
  simp [State.pass, herr, hcount, ← BitVec.toNat_inj]

theorem exec_start_of_running {s : State} (herr : s.err = false) : exec .start s = .next s.startSequence :=
  congrArg Host.Outcome.next (State.whenRunning_of_running _ herr)

/-- After the stop BYTE is discarded, in the error state too (R60, R90). -/
theorem exec_byte_of_stopped {s : State} (b : Byte) (hstop : s.stopped = true) : exec (.byte b) s = .next s := by
  rw [exec, execByte, State.feedByte, if_pos hstop, State.whenRunning, ite_self]

/-- On a full accumulator that has not stopped BYTE raises OVERLONG (R60, R87). -/
theorem exec_byte_of_full {s : State} (b : Byte) (herr : s.err = false) (hgo : s.stopped = false)
    (hfull : s.count.toNat = s.countMax) :
    exec (.byte b) s = .next { s with err := true, errCause := .overlong } := by
  rw [exec, execByte, State.whenRunning_of_running _ herr, State.feedByte, if_neg (by simp [hgo]), if_pos hfull,
    State.raiseError_eq]

/-- BYTEF writes the byte's count and whether it has a 1 bit, as BYTE does on the empty sequence (R61). -/
theorem exec_bytef_of_running {s : State} (b : Byte) (hadm : Config.Admitted s.maxLen) (herr : s.err = false) :
    exec (.bytef b) s = .next { s with count := BitVec.ofNat 12 (lzb b), stopped := decide (b ≠ 0x00#8) } := by
  have hroom : (0#12).toNat + 8 ≤ s.countMax := Nat.mul_le_mul_left 8 hadm.1
  obtain ⟨hexec, -⟩ := exec_byte_of_room (s := { s with count := 0#12, stopped := false }) b hadm herr rfl hroom
  rw [exec_bytef_eq_start_byte b hadm herr, State.startSequence_eq, hexec, BitVec.toNat_zero, Nat.zero_add]

/-- Settles O24: NOP's word is that of an empty operand, its meaning the identity, its edge an idle one. -/
theorem nopChangesNothing : Obligations.NopChangesNothing := by
  obtain ⟨-, hidle, -⟩ := idleCyclesChangeNothing
  exact ⟨rfl, decode_encode .nop, fun w hop hne => reservedBits_of_ne hop (.inl rfl) hne, fun _ => rfl,
    fun s w rest hadm => (hidle s w rest hadm).symm⟩

/-- Settles O25: START makes the sequence start, whose count meets the threshold 0 alone. -/
theorem startBeginsSequence : Obligations.StartBeginsSequence := by
  refine ⟨rfl, decode_encode .start, fun w hop hne => reservedBits_of_ne hop (.inr (.inl rfl)) hne,
    fun s herr => exec_of_err herr (by simp), fun s herr => ?_⟩
  exact ⟨_, exec_start_of_running herr, s.startSequence_eq,
    by rw [State.startSequence_eq]; exact State.pass_iff_of_count_zero herr rfl⟩

/-- Settles O26: the three cases are those of the byte fed; where it is added the invariant leaves room (R65). -/
theorem byteHasThreeCases : Obligations.ByteHasThreeCases := by
  refine ⟨fun b => ⟨encode_byte_toNat b, decode_encode _⟩, fun w hop => reservedBits_of_upper hop (.inl rfl),
    fun s b herr => exec_of_err herr (by simp), fun s b hinv herr => ?_⟩
  by_cases hstop : s.stopped = true
  · rw [if_pos hstop, exec_byte_of_stopped b hstop]
  have hgo : s.stopped = false := by simpa using hstop
  by_cases hfull : s.count.toNat = 8 * s.maxLen
  · rw [if_neg hstop, if_pos hfull, exec_byte_of_full b herr hgo hfull]
  obtain ⟨hexec, -⟩ := exec_byte_of_room b hinv.1 herr hgo (hinv.room hgo hfull).2
  rw [if_neg hstop, if_neg hfull, hexec]
  by_cases hb : b = 0x00#8
  · have hstay : decide (0x00#8 ≠ 0x00#8) = s.stopped := hgo.symm
    rw [if_pos hb, hb, hstay]
    rfl
  · rw [if_neg hb, decide_eq_true hb]

/-- Settles O27: a running accumulator that is not full has room for 8, and `COUNT_W` holds `COUNT_MAX`. -/
theorem byteSumNeverWraps : Obligations.ByteSumNeverWraps := by
  intro s b hinv herr hgo hfull
  obtain ⟨hmod, hroom⟩ := hinv.room hgo hfull
  obtain ⟨hexec, hval⟩ := exec_byte_of_room b hinv.1 herr hgo hroom
  have hmax : s.countMax = Config.countMax s.maxLen := rfl
  have hle := lzb_le b
  have hwidth := Config.countMax_lt_two_pow s.maxLen
  refine ⟨hmod, by omega, by omega, hwidth, _, hexec, hval, hval.trans ?_⟩
  rw [← BitVec.ofNat_add, BitVec.toNat_ofNat, Nat.mod_eq_of_lt (by omega)]

/-- Settles O28: BYTEF is START and then BYTE; with MAX_LEN 1 the zero byte's 8 is `COUNT_MAX`. -/
theorem bytefIsStartThenByte : Obligations.BytefIsStartThenByte := by
  refine ⟨fun b => ⟨encode_bytef_toNat b, decode_encode _⟩, fun w hop => reservedBits_of_upper hop (.inr rfl),
    fun s b herr => exec_of_err herr (by simp), fun s b hadm herr => ⟨exec_bytef_of_running b hadm herr, ?_⟩,
    fun s b hlen herr => ?_⟩
  · exact ⟨_, exec_start_of_running herr, (exec_bytef_eq_start_byte b hadm herr).symm⟩
  · have hfull : (BitVec.ofNat 12 (lzb 0x00#8)).toNat = Config.countMax 1 := by decide
    have hadm : Config.Admitted s.maxLen := by omega
    refine ⟨_, exec_bytef_of_running _ hadm herr, hfull, exec_byte_of_full b herr rfl ?_⟩
    rw [State.countMax, hlen, hfull]

end Machine
end Sys2Proof
end

section
/-! A whole sequence (spec/40_sequence_commands.md R62): the three phases an accumulator goes through, what starts the
first, and how each line of the sequence takes one to the next. -/
namespace Sys2Proof.Machine

/-- The registers after a sequence of the bytes `bs` on the machine of `s`: zero bytes are counted, at most MAX_LEN of
them; the first byte with a 1 bit stops the sequence, and any byte after MAX_LEN zero bytes is one too many. -/
inductive SequencePhase (s : State) : List Byte → Prop where
  | counting (n : Nat) (hn : n ≤ s.maxLen) (herr : s.err = false) (hgo : s.stopped = false)
      (hcount : s.count.toNat = 8 * n) : SequencePhase s (List.replicate n 0x00#8)
  | stopped (n : Nat) (b : Byte) (later : List Byte) (hn : n < s.maxLen) (hb : b ≠ 0x00#8) (herr : s.err = false)
      (hstop : s.stopped = true) (hcount : s.count.toNat = 8 * n + lzb b) :
      SequencePhase s (List.replicate n 0x00#8 ++ b :: later)
  | overlong (b : Byte) (later : List Byte) (herr : s.err = true) (hcause : s.errCause = .overlong)
      (hgo : s.stopped = false) (hcount : s.count.toNat = s.countMax) :
      SequencePhase s (List.replicate s.maxLen 0x00#8 ++ b :: later)

/-- Two states that differ in `required` and the host's inputs at most: a sequence reads neither. -/
structure SameSequence (s t : State) : Prop where
  maxLen : t.maxLen = s.maxLen
  count : t.count = s.count
  stopped : t.stopped = s.stopped
  err : t.err = s.err
  errCause : t.errCause = s.errCause

namespace SequencePhase
variable {s t : State} {bs : List Byte}

theorem of_sameSequence (h : SequencePhase s bs) (hst : SameSequence s t) : SequencePhase t bs := by
  obtain ⟨hlen, hcount_eq, hstopped_eq, herr_eq, hcause_eq⟩ := hst
  cases h with
  | counting n hn herr hgo hcount =>
    exact .counting n (hlen ▸ hn) (herr_eq.trans herr) (hstopped_eq.trans hgo) (hcount_eq ▸ hcount)
  | stopped n b later hn hb herr hstop hcount =>
    exact .stopped n b later (hlen ▸ hn) hb (herr_eq.trans herr) (hstopped_eq.trans hstop) (hcount_eq ▸ hcount)
  | overlong b later herr hcause hgo hcount =>
    have hmax : t.count.toNat = t.countMax := by rw [State.countMax, hcount_eq, hlen, hcount, State.countMax]
    exact hlen ▸ .overlong b later (herr_eq.trans herr) (hcause_eq.trans hcause) (hstopped_eq.trans hgo) hmax

/-- At a sequence start no byte has been counted. -/
theorem of_sequence_start (herr : s.err = false) (hgo : s.stopped = false) (hcount : s.count = 0#12) :
    SequencePhase s [] :=
  .counting 0 (Nat.zero_le _) herr hgo (by simp [hcount])

/-- BYTE appends its byte to the sequence. -/
theorem exec_byte (h : SequencePhase s bs) (hadm : Config.Admitted s.maxLen) (b : Byte)
    (ht : exec (.byte b) s = .next t) : SequencePhase t (bs ++ [b]) := by
  cases h with
  | counting n hn herr hgo hcount =>
    by_cases hfull : n = s.maxLen
    · subst hfull
      rw [exec_byte_of_full b herr hgo hcount] at ht
      cases ht
      exact .overlong b [] rfl rfl hgo hcount
    · have hlt : n < s.maxLen := by omega
      have hmax : s.countMax = 8 * s.maxLen := rfl
      obtain ⟨hexec, hval⟩ := exec_byte_of_room b hadm herr hgo (by omega)
      rw [hexec] at ht
      cases ht
      by_cases hb : b = 0x00#8
      · subst hb
        rw [← List.replicate_succ']
        exact .counting (n + 1) hlt herr rfl (hval.trans (congrArg (· + 8) hcount))
      · exact .stopped n b [] hlt hb herr (decide_eq_true hb) (hval.trans (by rw [hcount]))
  | stopped n c later hn hc herr hstop hcount =>
    rw [exec_byte_of_stopped b hstop] at ht
    cases ht
    rw [List.append_assoc]
    exact .stopped n c (later ++ [b]) hn hc herr hstop hcount
  | overlong c later herr hcause hgo hcount =>
    rw [exec_of_err herr (by simp)] at ht
    cases ht
    rw [List.append_assoc]
    exact .overlong c (later ++ [b]) herr hcause hgo hcount

/-- R62 (a): a fitting sequence raises no error, and `count` is its `lzs`. -/
theorem of_fits (h : SequencePhase s bs) (hfits : Fits s.maxLen bs) :
    s.err = false ∧ s.count.toNat = lzs bs ∧ (s.stopped = true ↔ ∃ b ∈ bs, b ≠ 0x00#8) := by
  cases h with
  | counting n hn herr hgo hcount => exact ⟨herr, by rw [hcount, lzs_replicate], by simp [hgo]⟩
  | stopped n b later hn hb herr hstop hcount =>
    exact ⟨herr, by rw [hcount, lzs_replicate_append, lzs_cons_of_ne_zero hb],
      iff_of_true hstop ⟨b, by simp, hb⟩⟩
  | overlong b later herr hcause hgo hcount =>
    simp only [Fits, leadingZeroBytes_replicate_append, List.length_append, List.length_replicate,
      List.length_cons] at hfits
    omega

/-- R62 (b): a sequence of more than MAX_LEN bytes of which the first MAX_LEN are zero raises OVERLONG. -/
theorem of_overlong (h : SequencePhase s bs) (hlong : s.maxLen < bs.length)
    (hzeros : s.maxLen ≤ leadingZeroBytes bs) :
    s.err = true ∧ s.errCause = .overlong ∧ s.count.toNat = Config.countMax s.maxLen ∧ s.stopped = false := by
  cases h with
  | counting n hn herr hgo hcount =>
    rw [List.length_replicate] at hlong
    omega
  | stopped n b later hn hb herr hstop hcount =>
    rw [leadingZeroBytes_replicate_append, leadingZeroBytes_cons_of_ne_zero hb] at hzeros
    omega
  | overlong b later herr hcause hgo hcount => exact ⟨herr, hcause, hcount, hgo⟩

end SequencePhase

/-- The commands that a sequence may hold beside BYTE do not touch it (R58, R70, R71). -/
theorem exec_sameSequence {i : Instr} {s t : State} (hi : i = .nop ∨ i = .latch ∨ ∃ n, i = .setreq n)
    (h : exec i s = .next t) : SameSequence s t := by
  obtain rfl | hx := exec_cases h
  · exact ⟨rfl, rfl, rfl, rfl, rfl⟩
  · obtain rfl | rfl | ⟨n, rfl⟩ := hi <;> cases hx <;> exact ⟨rfl, rfl, rfl, rfl, rfl⟩

/-- One line of a sequence appends the byte it feeds, if it feeds one. -/
theorem SequencePhase.step_line {s t : State} {bs : List Byte} {l : Line} {later : List Inputs}
    (h : SequencePhase s bs) (hadm : Config.Admitted s.maxLen) (hl : l.inSequence = true)
    (hs : s.script = l.inputs :: later) (ht : step s = .next t) : SequencePhase t (bs ++ l.feeds.toList) := by
  have h' : SequencePhase (s.setScript later) bs := h.of_sameSequence ⟨rfl, rfl, rfl, rfl, rfl⟩
  have hkeep {i : Instr} (hi : i = .nop ∨ i = .latch ∨ ∃ n, i = .setreq n)
      (hx : exec i (s.setScript later) = .next t) : SequencePhase t (bs ++ []) := by
    rw [List.append_nil]
    exact h'.of_sameSequence (exec_sameSequence hi hx)
  cases l with
  | reset | start | bytef | clrerr | word => simp [Line.inSequence] at hl
  | byte b => exact h'.exec_byte hadm _ ((step_command_line (l := .byte b) hadm hl rfl hs).symm.trans ht)
  | idle w =>
    rw [step_idle_line hadm hs] at ht
    cases ht
    exact (List.append_nil bs).symm ▸ h'
  | nop => exact hkeep (by simp) ((step_command_line hadm rfl rfl hs).symm.trans ht)
  | latch => exact hkeep (by simp) ((step_command_line hadm rfl rfl hs).symm.trans ht)
  | setreq n => exact hkeep (by simp) ((step_command_line (l := .setreq n) hadm hl rfl hs).symm.trans ht)

theorem fed_cons (l : Line) (ls : List Line) : fed (l :: ls) = l.feeds.toList ++ fed ls := by
  cases h : l.feeds <;> simp [fed, h]

/-- The lines of a sequence append the bytes they feed (R62). -/
theorem SequencePhase.runs_lines {s : State} {bs : List Byte} {ls : List Line} {rest : List Inputs}
    (h : SequencePhase s bs) (hadm : Config.Admitted s.maxLen) (hls : ∀ l ∈ ls, l.inSequence = true)
    (hs : s.script = driven ls ++ rest) :
    ∃ t : State, runs ls.length s = .next t ∧ t.script = rest ∧ t.maxLen = s.maxLen ∧
      SequencePhase t (bs ++ fed ls) := by
  induction ls generalizing s bs with
  | nil => exact ⟨s, rfl, hs, rfl, by simpa [fed] using h⟩
  | cons l ls ih =>
    obtain ⟨hl, hls⟩ := List.forall_mem_cons.1 hls
    obtain ⟨u, hu, hulen, huscript⟩ := step_is_next hadm
    obtain ⟨t, ht, hscript, hlen, hphase⟩ :=
      ih (h.step_line hadm hl hs hu) (hulen ▸ hadm) hls (by rw [huscript, hs]; rfl)
    refine ⟨t, (runs_succ_of_step _ hu).trans ht, hscript, hlen.trans hulen, ?_⟩
    rwa [fed_cons, ← List.append_assoc]

/-- A line that begins a sequence leaves the phase of its bytes: none, or BYTEF's one, which is BYTE on the empty
sequence (R59, R61, R80, R101). -/
theorem sequencePhase_of_begins {s t : State} {l : Line} {bs : List Byte} {later : List Inputs}
    (hadm : Config.Admitted s.maxLen) (herr : s.err = false) (hl : l.begins = some bs)
    (hs : s.script = l.inputs :: later) (ht : step s = .next t) : SequencePhase t bs := by
  have hstart : SequencePhase (s.setScript later).startSequence [] :=
    .of_sequence_start (by simpa using herr) (by simp) (by simp)
  cases l with
  | idle | nop | byte | latch | setreq | word => simp [Line.begins] at hl
  | reset v w =>
    rw [step_cons hadm hs, clockEdge_rst _ rfl] at ht
    cases ht
    cases hl
    exact .of_sequence_start (by simp) (by simp) (by simp)
  | start =>
    rw [step_start_line hadm herr hs] at ht
    cases ht
    cases hl
    exact hstart
  | clrerr =>
    rw [step_command_line hadm rfl rfl hs] at ht
    cases ht
    cases hl
    exact .of_sequence_start (by simp) (by simp) (by simp)
  | bytef b =>
    rw [Line.begins] at hl
    split_ifs at hl with hb
    cases hl
    rw [step_command_line (l := .bytef b) hadm (decide_eq_true hb) rfl hs,
      exec_bytef_eq_start_byte (s := s.setScript later) _ hadm herr] at ht
    exact hstart.exec_byte (by simpa using hadm) _ ht

/-- Settles O46: the first line begins the sequence, each later line appends the byte it feeds, and the phase reached
gives both cases of the rule. -/
theorem sequenceComputesLzs : Obligations.SequenceComputesLzs := by
  intro s first bs₀ ls rest hinv herr hfirst hls hs
  obtain ⟨u, hu, hulen, huscript⟩ := step_is_next hinv.1
  have hbegin := sequencePhase_of_begins hinv.1 herr hfirst hs hu
  obtain ⟨t, ht, hscript, hlen, hphase⟩ :=
    hbegin.runs_lines (hulen ▸ hinv.1) hls (by rw [huscript, hs]; rfl)
  have hrun : runs (1 + ls.length) s = .next t := by rw [Nat.add_comm, runs_succ_of_step _ hu, ht]
  rw [hulen] at hlen
  exact ⟨t, hrun, hscript, hlen, hlen ▸ hphase.of_fits, hlen ▸ hphase.of_overlong⟩

end Sys2Proof.Machine
end

section
/-! The threshold commands and the comparator (spec/41_threshold_commands.md R70 to R73, R75). -/
namespace Sys2Proof.Machine

/-- The comparator as a proposition over numbers (R72). -/
theorem State.pass_iff (s : State) : s.pass = true ↔ s.err = false ∧ s.required.toNat ≤ s.count.toNat := by
  simp [State.pass]

theorem State.pass_of_err {s : State} (herr : s.err = true) : s.pass = false := by
  simp [State.pass, herr]

theorem State.Inv.count_le_countMax {s : State} (hinv : s.Inv) : s.count.toNat ≤ Config.countMax s.maxLen := by
  obtain ⟨-, hle, -⟩ := hinv
  exact hle

/-- Every count is below `REQ_NEVER` (R4). -/
theorem State.Inv.count_lt_reqNever {s : State} (hinv : s.Inv) : s.count.toNat < Config.reqNever.toNat := by
  have hnever : Config.reqNever.toNat = 4095 := rfl
  have hcount := hinv.count_le_countMax.trans (Config.countMax_le hinv.1)
  omega

theorem exec_latch_of_running {s : State} (herr : s.err = false) : exec .latch s = .next (s.setRequired s.count) :=
  congrArg Host.Outcome.next (State.whenRunning_of_running _ herr)

theorem exec_setreq_of_running {s : State} (n : Number) (herr : s.err = false) :
    exec (.setreq n) s = .next (s.setRequired n) :=
  congrArg Host.Outcome.next (State.whenRunning_of_running _ herr)

/-- Every word of opcode 5 spells SETREQ (R41, R71). -/
theorem decode_of_opcode_five {w : CmdWord} (hop : w.toNat / 4096 = 5) :
    decode w = .ok (.setreq (BitVec.ofNat 12 (w.toNat % 4096))) := by
  rw [decode_eq_ok_iff, encode_setreq_toNat, BitVec.toNat_ofNat]
  omega

/-- Settles O41: the comparator's two conditions, read at the threshold and one to either side of it. -/
theorem passIsThresholdTest : Obligations.PassIsThresholdTest := by
  refine fun s => ⟨s.pass_iff, State.pass_of_err, fun herr htie => ?_, fun herr hless => ?_, fun herr hmore => ?_⟩
  · exact s.pass_iff.2 ⟨herr, by rw [htie]⟩
  · exact State.pass_of_count_lt (by omega)
  · exact s.pass_iff.2 ⟨herr, by omega⟩

/-- Settles O33: LATCH and SETREQ are among the commands that leave a sequence alone. -/
theorem thresholdCommandsFrame : Obligations.ThresholdCommandsFrame := by
  intro s t i hi h
  obtain ⟨hlen, hcount, hstopped, herr, hcause⟩ := exec_sameSequence (.inr hi) h
  exact ⟨hcount, hstopped, herr, hcause, hlen, (exec_frame h).2⟩

/-- Settles O29: LATCH's threshold is the count, which ties with itself and is bounded by the invariant. -/
theorem latchStoresCount : Obligations.LatchStoresCount := by
  refine ⟨rfl, decode_encode .latch, fun w hop hne => reservedBits_of_ne hop (.inr (.inr (.inl rfl))) hne,
    fun s herr => exec_of_err herr (by simp), fun s herr => ?_⟩
  refine ⟨_, exec_latch_of_running herr, rfl, (State.pass_iff _).2 ⟨herr, le_rfl⟩,
    fun hinv => ⟨hinv.count_le_countMax, fun hnever => ?_⟩⟩
  exact hinv.count_lt_reqNever.ne (congrArg BitVec.toNat hnever)

/-- Settles O30: no count is below 0, and none of the invariant is above `COUNT_MAX` or meets 4095. -/
theorem setreqLoadsNumber : Obligations.SetreqLoadsNumber := by
  refine ⟨fun n => ⟨encode_setreq_toNat n, decode_encode _⟩, fun w => decode_of_opcode_five,
    fun s n herr => exec_of_err herr (by simp), fun s n herr => ?_⟩
  refine ⟨_, exec_setreq_of_running n herr, rfl, fun hzero => ?_, fun hinv habove => ?_, fun hinv hnever => ?_⟩
  · exact (State.pass_iff _).2 ⟨herr, by simp [hzero]⟩
  · exact State.pass_of_count_lt (hinv.count_le_countMax.trans_lt habove)
  · exact State.pass_of_count_lt (hnever ▸ hinv.count_lt_reqNever)

/-- Settles O42: the operand stands for the integer itself, or for one that every count meets or none does. -/
theorem integerThresholdMapping : Obligations.IntegerThresholdMapping := by
  refine ⟨fun s r n hinv herr hlow hexact hhigh => ⟨_, exec_setreq_of_running n herr, ?_⟩,
    fun s hinv herr => ⟨_, exec_latch_of_running herr, hinv.count_le_countMax⟩⟩
  have hverdict : (s.setRequired n).pass = true ↔ n.toNat ≤ s.count.toNat :=
    (State.pass_iff _).trans (and_iff_right herr)
  have hcount : s.count.toNat < 4095 := hinv.count_lt_reqNever
  rw [hverdict, State.setRequired_count]
  rcases lt_or_ge 4095 r with hr | hr
  · have hn : n.toNat = 4095 := congrArg BitVec.toNat (hhigh hr)
    omega
  rcases le_total r 0 with hr0 | hr0
  · have hn : n.toNat = 0 := congrArg BitVec.toNat (hlow hr0)
    omega
  · have hn := hexact hr0 hr
    omega

end Sys2Proof.Machine
end

section
/-! The threshold over a running sequence (spec/41_threshold_commands.md R76): lines that do not write `required` can
only raise the count, or raise OVERLONG. -/
namespace Sys2Proof.Machine

/-- What lines that keep the threshold can make of a state: no error is entered and the count has not fallen, or the
block stands in OVERLONG. -/
structure KeepsThreshold (s t : State) : Prop where
  required : t.required = s.required
  outcome : (t.err = s.err ∧ t.errCause = s.errCause ∧ s.count.toNat ≤ t.count.toNat) ∨
    (t.err = true ∧ t.errCause = .overlong)

namespace KeepsThreshold
variable {s t u : State}

theorem refl (s : State) : KeepsThreshold s s :=
  ⟨rfl, .inl ⟨rfl, rfl, le_rfl⟩⟩

/-- OVERLONG, once entered, stays. -/
theorem trans (hsu : KeepsThreshold s u) (hut : KeepsThreshold u t) : KeepsThreshold s t := by
  refine ⟨hut.required.trans hsu.required, ?_⟩
  obtain ⟨herr, hcause, hle⟩ | hover := hut.outcome
  · rw [herr, hcause]
    exact hsu.outcome.imp_left fun ⟨herr', hcause', hle'⟩ => ⟨herr', hcause', hle'.trans hle⟩
  · exact .inr hover

end KeepsThreshold

/-- BYTE adds without wrapping (R65), or is discarded, or raises OVERLONG. -/
theorem exec_byte_keepsThreshold {s t : State} {b : Byte} (hinv : s.Inv) (h : exec (.byte b) s = .next t) :
    KeepsThreshold s t := by
  obtain rfl | hx := exec_cases h
  · exact .refl _
  refine ⟨hx.required_eq (by simp) (by simp), ?_⟩
  cases hx with
  | overlong _ herr hgo hfull => exact .inr ⟨rfl, rfl⟩
  | accumulate _ herr hgo hroom =>
    obtain ⟨hexec, hval⟩ := exec_byte_of_room b hinv.1 herr hgo (hinv.room hgo hroom).2
    rw [← Host.Outcome.next.inj (hexec.symm.trans h)]
    exact .inl ⟨rfl, rfl, (Nat.le_add_right _ _).trans_eq hval.symm⟩

theorem step_line_keepsThreshold {s t : State} {l : Line} {later : List Inputs} (hinv : s.Inv)
    (hl : l.keepsThreshold = true) (hs : s.script = l.inputs :: later) (h : step s = .next t) :
    KeepsThreshold s t := by
  have hpass : KeepsThreshold s (s.setScript later) := ⟨rfl, .inl ⟨rfl, rfl, le_rfl⟩⟩
  cases l with
  | reset | start | bytef | latch | setreq | clrerr | word => simp [Line.keepsThreshold] at hl
  | idle w =>
    rw [step_idle_line hinv.1 hs] at h
    cases h
    exact hpass
  | nop =>
    rw [step_command_line hinv.1 rfl rfl hs] at h
    cases h
    exact hpass
  | byte b =>
    rw [step_command_line (l := .byte b) hinv.1 hl rfl hs] at h
    exact hpass.trans (exec_byte_keepsThreshold (s := s.setScript later) hinv h)

/-- One line after the other, in the invariant all the way. -/
theorem runs_keepsThreshold {s : State} {ls : List Line} {rest : List Inputs} (hinv : s.Inv)
    (hls : ∀ l ∈ ls, l.keepsThreshold = true) (hs : s.script = driven ls ++ rest) :
    ∃ t : State, runs ls.length s = .next t ∧ t.Inv ∧ KeepsThreshold s t := by
  induction ls generalizing s with
  | nil => exact ⟨s, rfl, hinv, .refl s⟩
  | cons l ls ih =>
    obtain ⟨hl, hls⟩ := List.forall_mem_cons.1 hls
    obtain ⟨u, hu, -, huscript⟩ := step_is_next hinv.1
    obtain ⟨t, ht, htinv, hut⟩ := ih (step_keeps_inv hinv hu) hls (by rw [huscript, hs]; rfl)
    exact ⟨t, (runs_succ_of_step _ hu).trans ht, htinv, (step_line_keepsThreshold hinv hl hs hu).trans hut⟩

/-- Settles O50: the threshold stands and the count has not fallen, so a met threshold stays met. -/
theorem passMonotoneInSequence : Obligations.PassMonotoneInSequence := by
  intro s ls rest hinv herr hls hs
  obtain ⟨t, ht, -, hreq, hout⟩ := runs_keepsThreshold hinv hls hs
  refine ⟨t, ht, hreq, fun hterr => ?_, fun hterr => ⟨State.pass_of_err hterr, ?_⟩⟩
  · obtain ⟨-, -, hle⟩ | ⟨hover, -⟩ := hout
    · refine ⟨hle, fun hpass => (State.pass_iff t).2 ⟨hterr, ?_⟩⟩
      rw [hreq]
      exact ((State.pass_iff s).1 hpass).2.trans hle
    · simp [hterr] at hover
  · obtain ⟨hkept, -⟩ | ⟨-, hcause⟩ := hout
    · simp [hterr, herr] at hkept
    · exact hcause

end Sys2Proof.Machine
end

section
/-! The shorthands of spec/30_encoding.md R50 on lists that fit: SEQ leaves the list's count, LOADDIFF its count as the
threshold; a difficulty and a digest after it give the verdict (spec/41_threshold_commands.md R74, R77, R78). -/
namespace Sys2Proof.Machine

/-- Where a run from `s` ends that raises no error: on the same machine, with the inputs `rest` to come. -/
structure EndsRunning (s : State) (rest : List Inputs) (t : State) : Prop where
  inv : t.Inv
  err : t.err = false
  maxLen : t.maxLen = s.maxLen
  script : t.script = rest

theorem driven_append (ls₁ ls₂ : List Line) : driven (ls₁ ++ ls₂) = driven ls₁ ++ driven ls₂ :=
  List.map_append

theorem runs_append {ls₁ : List Line} {s t : State} (h : runs ls₁.length s = .next t) (ls₂ : List Line) :
    runs (ls₁ ++ ls₂).length s = runs ls₂.length t := by
  rw [List.length_append, runs_add h]

theorem Line.inSequence_of_keepsThreshold {l : Line} (h : l.keepsThreshold = true) : l.inSequence = true := by
  cases l with
  | byte b => exact h
  | idle | nop => rfl
  | reset | start | bytef | latch | setreq | clrerr | word => simp [Line.keepsThreshold] at h

/-- The lines of a list's bytes. -/
def byteLines (bs : List Byte) : List Line := (operands bs).map .byte

theorem keepsThreshold_of_mem_byteLines {bs : List Byte} : ∀ l ∈ byteLines bs, l.keepsThreshold = true := by
  intro l hl
  obtain ⟨_, hb, rfl⟩ := List.mem_map.1 hl
  obtain ⟨b, -, rfl⟩ := List.mem_map.1 hb
  exact decide_eq_true (Nat.le_of_lt_succ b.isLt)

theorem fed_byteLines (bs : List Byte) : fed (byteLines bs) = bs := by
  induction bs with
  | nil => rfl
  | cons b bs ih =>
    have hfed : fed (byteLines (b :: bs)) = BitVec.ofNat 8 b.toNat :: fed (byteLines bs) := rfl
    rw [hfed, ih, BitVec.ofNat_toNat, BitVec.setWidth_eq]

/-- SEQ of a list that fits is a sequence start and the list's bytes: R62 (a) gives the count, and no line of it
writes the threshold. -/
theorem runs_seq {s : State} {bs : List Byte} {rest : List Inputs} (hinv : s.Inv) (herr : s.err = false)
    (hfits : Fits s.maxLen bs) (hs : s.script = driven (Pseudo.seq (operands bs)).lines ++ rest) :
    ∃ t : State, runs (Pseudo.seq (operands bs)).lines.length s = .next t ∧ EndsRunning s rest t ∧
      t.count.toNat = lzs bs ∧ t.required = s.required := by
  have hstart := step_start_line (rest := driven (byteLines bs) ++ rest) hinv.1 herr hs
  have hbytes : (s.setScript (driven (byteLines bs) ++ rest)).startSequence.script = driven (byteLines bs) ++ rest := by
    simp
  have hempty := sequencePhase_of_begins hinv.1 herr (rfl : Line.start.begins = some []) hs hstart
  have hkeep := keepsThreshold_of_mem_byteLines (bs := bs)
  obtain ⟨t, ht, hscript, hlen, hphase⟩ := hempty.runs_lines (by simpa using hinv.1)
    (fun l hl => Line.inSequence_of_keepsThreshold (hkeep l hl)) hbytes
  obtain ⟨t', ht', htinv, hreq, -⟩ := runs_keepsThreshold (step_keeps_inv hinv hstart) hkeep hbytes
  obtain rfl : t = t' := Host.Outcome.next.inj (ht.symm.trans ht')
  have hlen' : t.maxLen = s.maxLen := by simpa using hlen
  rw [List.nil_append, fed_byteLines] at hphase
  obtain ⟨hterr, hcount, -⟩ := hphase.of_fits (hlen' ▸ hfits)
  exact ⟨t, (runs_succ_of_step _ hstart).trans ht, ⟨htinv, hterr, hlen', hscript⟩, hcount, by simpa using hreq⟩

/-- LOADDIFF is SEQ and LATCH (R50). -/
theorem runs_loaddiff {s : State} {enc : List Byte} {rest : List Inputs} (hinv : s.Inv) (herr : s.err = false)
    (hfits : Fits s.maxLen enc) (hs : s.script = driven (Pseudo.loaddiff (operands enc)).lines ++ rest) :
    ∃ t : State, runs (Pseudo.loaddiff (operands enc)).lines.length s = .next t ∧ EndsRunning s rest t ∧
      t.required.toNat = lzs enc := by
  have hlines : (Pseudo.loaddiff (operands enc)).lines = (Pseudo.seq (operands enc)).lines ++ [.latch] := rfl
  rw [hlines, driven_append, List.append_assoc] at hs
  obtain ⟨u, hu, hend, hcount, -⟩ := runs_seq hinv herr hfits hs
  have hlatch : step u = .next ((u.setScript rest).setRequired u.count) :=
    (step_command_line (l := .latch) hend.inv.1 rfl rfl hend.script).trans
      (exec_latch_of_running (s := u.setScript rest) hend.err)
  rw [hlines, runs_append hu]
  exact ⟨_, runs_succ_of_step 0 hlatch, ⟨step_keeps_inv hend.inv hlatch, hend.err, hend.maxLen, rfl⟩, hcount⟩

/-- Settles O48: SEQ keeps the threshold that LOADDIFF or SETREQ has left, and leaves the digest's count beside it. -/
theorem verdictOfDigest : Obligations.VerdictOfDigest := by
  intro s enc d rest hinv herr hd
  refine ⟨fun henc hs => ?_, fun r hr hs => ?_⟩
  · rw [driven_append, List.append_assoc] at hs
    obtain ⟨u, hu, hend, hreq⟩ := runs_loaddiff hinv herr henc hs
    obtain ⟨t, ht, htend, hcount, htreq⟩ := runs_seq hend.inv hend.err (hend.maxLen ▸ hd) hend.script
    rw [← htreq] at hreq
    exact ⟨t, (runs_append hu _).trans ht, htend.err, hreq,
      by rw [State.pass_iff, and_iff_right htend.err, hreq, hcount]⟩
  · have hload : step s = .next ((s.setScript _).setRequired (BitVec.ofNat 12 r)) :=
      (step_command_line (l := .setreq r) hinv.1 (decide_eq_true hr) rfl hs).trans
        (exec_setreq_of_running (s := s.setScript _) _ herr)
    obtain ⟨t, ht, htend, hcount, htreq⟩ := runs_seq (step_keeps_inv hinv hload) herr hd rfl
    have hreq : t.required.toNat = r := by
      rw [htreq, State.setRequired_required, BitVec.toNat_ofNat]
      omega
    exact ⟨t, by rw [Nat.add_comm, runs_succ_of_step _ hload, ht], htend.err, hreq,
      by rw [State.pass_iff, and_iff_right htend.err, hreq, hcount]⟩

/-- Settles O47: CHECK has SEQ's lines, and SEQF leaves SEQ's state. -/
theorem seqComputesSequenceCount : Obligations.SeqComputesSequenceCount := by
  intro s bs p rest hinv herr hfits hp hs
  have hlines : p.lines = (Pseudo.seq (operands bs)).lines ∨ (bs ≠ [] ∧ p = .seqf (operands bs)) := by
    obtain rfl | rfl | hseqf := hp
    exacts [.inl rfl, .inl rfl, .inr hseqf]
  obtain hseq | ⟨hne, rfl⟩ := hlines
  · rw [hseq] at hs ⊢
    obtain ⟨t, ht, hend, hcount, hreq⟩ := runs_seq hinv herr hfits hs
    exact ⟨t, ht, hend.err, hcount, hreq, hend.script⟩
  · obtain ⟨t, ht, hend, hcount, hreq⟩ :=
      runs_seq (s := s.setScript (driven (Pseudo.seq (operands bs)).lines ++ rest)) hinv herr hfits rfl
    obtain ⟨t', hseq, hseqf⟩ := seqfLeavesSameState s bs rest hinv herr hne
    obtain rfl : t = t' := Host.Outcome.next.inj (ht.symm.trans hseq)
    rw [← hs] at hseqf
    exact ⟨t, hseqf, hend.err, hcount, hreq, hend.script⟩

/-- Settles O52: the latched count is the plain count of leading zero bits (R63), here 4 for either first byte. -/
theorem onlyFirstOneBitMatters : Obligations.OnlyFirstOneBitMatters := by
  refine ⟨fun s₁ s₂ enc₁ enc₂ rest₁ rest₂ hinv₁ hinv₂ herr₁ herr₂ hfits₁ hfits₂ hbits hs₁ hs₂ => ?_,
    fun s tail b rest hinv herr hb hs => ?_⟩
  · obtain ⟨t₁, ht₁, hend₁, hreq₁⟩ := runs_loaddiff hinv₁ herr₁ hfits₁ hs₁
    obtain ⟨t₂, ht₂, hend₂, hreq₂⟩ := runs_loaddiff hinv₂ herr₂ hfits₂ hs₂
    rw [lzs_eq_leadingZeroBits] at hreq₁ hreq₂
    exact ⟨t₁, t₂, ht₁, ht₂, hend₁.err, hend₂.err,
      BitVec.eq_of_toNat_eq (hreq₁.trans (hbits.trans hreq₂.symm)), hreq₁⟩
  · obtain ⟨hne, hlzb⟩ : b ≠ 0x00#8 ∧ lzb b = 4 := by obtain rfl | rfl := hb <;> decide
    have hfits : Fits s.maxLen (b :: tail) := .inr (by rw [leadingZeroBytes_cons_of_ne_zero hne]; exact hinv.1.1)
    obtain ⟨t, ht, hend, hreq⟩ := runs_loaddiff hinv herr hfits hs
    exact ⟨t, ht, hend.err, BitVec.eq_of_toNat_eq (by rw [hreq, lzs_cons_of_ne_zero hne, hlzb]; rfl)⟩

end Sys2Proof.Machine
end

section
/-! CLRERR and the edge at which the host drives nothing (spec/42_system_commands.md R80, R81). -/
namespace Sys2Proof.Machine

/-- CLRERR has the one effect, in the error state and outside it (R80). -/
theorem exec_clrerr (s : State) :
    exec .clrerr s = .next { s with count := 0#12, stopped := false, err := false, errCause := .none } :=
  congrArg Host.Outcome.next s.leaveError_eq

/-- With no error to clear, the return from the error state is the sequence start alone (R59, R80). -/
theorem State.leaveError_eq_startSequence {s : State} (herr : s.err = false) (hcause : s.errCause = .none) :
    s.leaveError = s.startSequence := by
  rw [State.leaveError_eq, State.startSequence_eq, ← herr, ← hcause]

/-- In the error state a word that spells no command is ignored (R48, R90). -/
theorem step_word_error_of_err {s : State} {w : CmdWord} {d : DecodeError} {rest : List Inputs}
    (hadm : Config.Admitted s.maxLen) (herr : s.err = true) (hd : decode w = .error d)
    (hs : s.script = .command w :: rest) : step s = .next (s.setScript rest) := by
  have hfrozen : (s.setScript rest).err = true := herr
  rw [step_cons hadm hs, clockEdge_word _ rfl rfl, Inputs.command_cmd, runWord_error _ hd,
    State.whenRunning_of_err _ hfrozen]

/-- Settles O31: the other words of opcode 6 have a reserved bit set; CLRERR's own effect starts a sequence, whose
count 0 meets the threshold 0 alone. -/
theorem clrerrLeavesErrorState : Obligations.ClrerrLeavesErrorState := by
  have hreserved : ∀ w : CmdWord, w.toNat / 4096 = 6 → w ≠ 0x6000#16 →
      decode w = .error (.reservedBits 6#4) ∧ RaisesIllegalCmd w :=
    fun w hop hne => reservedBits_of_ne hop (.inr (.inr (.inr rfl))) hne
  refine ⟨rfl, decode_encode .clrerr, hreserved, fun s w rest hadm hop hne herr hs => ?_,
    fun s herr hcause => ?_, fun s => ?_⟩
  · obtain ⟨hd, -⟩ := hreserved w hop hne
    exact step_word_error_of_err hadm herr hd hs
  · rw [exec_start_of_running herr, ← State.leaveError_eq_startSequence herr hcause]
    rfl
  · exact ⟨_, exec_clrerr s, rfl, State.pass_iff_of_count_zero rfl rfl⟩

/-- Settles O14: the edge of an exhausted script samples nothing. -/
theorem exhaustedScriptIdles : Obligations.ExhaustedScriptIdles :=
  fun _ => step_of_script_nil

/-- Settles O34: CLRERR is no writer of `required`, and no command writes MAX_LEN or the inputs to come. -/
theorem clrerrFrame : Obligations.ClrerrFrame := by
  intro s t h
  refine ⟨?_, exec_frame h⟩
  rw [exec_clrerr] at h
  cases h
  rfl

end Sys2Proof.Machine
end

section
/-! The two errors (spec/60_exceptions.md R85 to R89, R93): which words and states raise them, and that nothing else
does. -/
namespace Sys2Proof.Machine

/-- A presented illegal word (R86). -/
abbrev Inputs.PresentsIllegal (e : Inputs) : Prop :=
  e.rst = false ∧ e.cmdValid = true ∧ ¬ Spec.Legal e.cmd.toNat

/-- A presented BYTE word that finds the accumulator full and not stopped (R87). -/
abbrev Inputs.Overfills (e : Inputs) (s : State) : Prop :=
  e.rst = false ∧ e.cmdValid = true ∧ e.cmd.toNat / 256 = 0x20 ∧ s.stopped = false ∧ s.count.toNat = 8 * s.maxLen

theorem step_reset {s : State} {e : Inputs} {rest : List Inputs} (hadm : Config.Admitted s.maxLen)
    (hr : e.rst = true) (hs : s.script = e :: rest) : step s = .next (State.resetAt s.maxLen rest) := by
  rw [step_cons hadm hs, clockEdge_rst _ hr, State.resetRegisters_eq_resetAt]
  rfl

theorem step_of_presentsIllegal {s : State} {e : Inputs} {rest : List Inputs} (hadm : Config.Admitted s.maxLen)
    (herr : s.err = false) (hs : s.script = e :: rest) (he : e.PresentsIllegal) :
    step s = .next ((s.setScript rest).raiseError .illegalCmd) := by
  obtain ⟨rst, cmdValid, w⟩ := e
  obtain ⟨rfl, rfl, hillegal⟩ := he
  obtain ⟨d, hd⟩ := exists_decode_error hillegal
  exact raisesIllegalCmd_of_decode_error hd s rest hadm herr hs

/-- The BYTE words are those of opcode 2 whose upper digit is zero (R42). -/
theorem decode_of_byte_word {w : CmdWord} (h : w.toNat / 256 = 0x20) : decode w = .ok (.byte (byteOf w)) := by
  rw [decode_eq_ok_iff, encode_byte_toNat, byteOf_toNat]
  omega

theorem step_of_overfills {s : State} {e : Inputs} {rest : List Inputs} (hadm : Config.Admitted s.maxLen)
    (herr : s.err = false) (hs : s.script = e :: rest) (he : e.Overfills s) :
    step s = .next ((s.setScript rest).raiseError .overlong) := by
  obtain ⟨hr, hv, hword, hgo, hfull⟩ := he
  rw [step_cons hadm hs, clockEdge_word _ hr hv, runWord_ok _ (decode_of_byte_word hword)]
  exact exec_byte_of_full (s := s.setScript rest) _ herr hgo hfull

/-- The one command write that sets `err` is BYTE's OVERLONG (R85). -/
theorem CommandWrites.overlong_of_err {i : Instr} {s t : State} (hx : CommandWrites s i t) (herr : s.err = false)
    (ht : t.err = true) :
    t = s.raiseError .overlong ∧ s.stopped = false ∧ s.count.toNat = 8 * s.maxLen ∧ ∃ b, i = .byte b := by
  cases hx with
  | overlong b _ hgo hfull => exact ⟨rfl, hgo, hfull, b, rfl⟩
  | _ => simp [State.accumulate, herr] at ht

theorem exec_overlong_of_err {i : Instr} {s t : State} (h : exec i s = .next t) (herr : s.err = false)
    (ht : t.err = true) :
    t = s.raiseError .overlong ∧ s.stopped = false ∧ s.count.toNat = 8 * s.maxLen ∧ ∃ b, i = .byte b := by
  obtain rfl | hx := exec_cases h
  · simp [herr] at ht
  · exact hx.overlong_of_err herr ht

theorem exec_keeps_inv {i : Instr} {s t : State} (hinv : s.Inv) (h : exec i s = .next t) : t.Inv := by
  obtain rfl | hx := exec_cases h
  · exact hinv
  · exact hx.inv hinv

/-- An edge that enters the error state makes one of the two error entries, each under its own condition (R85). -/
theorem EdgeEffect.error_cases {e : Inputs} {s t : State} (he : EdgeEffect e s t) (herr : s.err = false)
    (ht : t.err = true) :
    (t = s.raiseError .illegalCmd ∧ e.PresentsIllegal) ∨ (t = s.raiseError .overlong ∧ e.Overfills s) := by
  cases he with
  | reset hr => simp at ht
  | unchanged hr => simp [herr] at ht
  | illegal hr hv hd _ => exact .inl ⟨rfl, hr, hv, not_legal_of_decode_error hd⟩
  | command hr hv hw hx =>
    obtain ⟨rfl, hgo, hfull, b, rfl⟩ := hx.overlong_of_err herr ht
    obtain ⟨hword, -⟩ := byte_word_fields (k := 0x20) (hw ▸ encode_byte_toNat b)
    exact .inr ⟨rfl, hr, hv, hword, hgo, hfull⟩

/-- Settles O17: an illegal word spells no command, and idle, RESET and the error state come before its entry. -/
theorem illegalWordEntersError : Obligations.IllegalWordEntersError := by
  intro s w rest hadm hillegal
  obtain ⟨d, hd⟩ := exists_decode_error hillegal
  exact ⟨raisesIllegalCmd_of_decode_error hd s rest hadm, step_idle_line hadm, fun _ => step_reset hadm rfl,
    fun herr => step_word_error_of_err hadm herr hd⟩

/-- Settles O18: BYTE's second case, and the inversion of a command that sets `err`. -/
theorem overlongOnlyFromByte : Obligations.OverlongOnlyFromByte := by
  refine ⟨fun s b herr hgo hfull => exec_byte_of_full b herr hgo hfull, fun s t i herr h ht => ?_⟩
  obtain ⟨rfl, hgo, hfull, hbyte⟩ := exec_overlong_of_err h herr ht
  exact ⟨rfl, hgo, hfull, hbyte⟩

/-- Settles O19: each condition leads to its entry, an edge into the error state met one of the two, and the codes
tell them apart. -/
theorem errorsRaisedExactly : Obligations.ErrorsRaisedExactly := by
  intro s t e rest hinv herr hs h
  have hcases : t.err = true → (t = (s.setScript rest).raiseError .illegalCmd ∧ e.PresentsIllegal) ∨
      (t = (s.setScript rest).raiseError .overlong ∧ e.Overfills s) :=
    (step_effect hs h).error_cases herr
  refine ⟨⟨fun ⟨ht, hcode⟩ => ?_, fun he => ?_⟩, ⟨fun ⟨ht, hcode⟩ => ?_, fun he => ?_⟩, fun ht => ?_, fun ht => ?_⟩
  · obtain ⟨-, he⟩ | ⟨rfl, -⟩ := hcases ht
    · exact he
    · exact absurd hcode (by decide : ErrCause.overlong.code ≠ 1#2)
  · cases h.symm.trans (step_of_presentsIllegal hinv.1 herr hs he)
    exact ⟨rfl, rfl⟩
  · obtain ⟨rfl, -⟩ | ⟨-, he⟩ := hcases ht
    · exact absurd hcode (by decide : ErrCause.illegalCmd.code ≠ 2#2)
    · exact he
  · cases h.symm.trans (step_of_overfills hinv.1 herr hs he)
    exact ⟨rfl, rfl⟩
  · obtain ⟨rfl, -⟩ | ⟨rfl, -⟩ := hcases ht
    · exact .inl rfl
    · exact .inr rfl
  · obtain ⟨rfl, -⟩ | ⟨rfl, -⟩ := hcases ht <;> exact ⟨rfl, rfl, rfl⟩

/-- Settles O20: the malformed word spells no command, so the accumulator is not looked at. -/
theorem illegalBeatsOverlong : Obligations.IllegalBeatsOverlong := by
  intro s w rest hadm herr _ _ hop hupper hs
  obtain ⟨-, hraises⟩ := reservedBits_of_upper hop (.inl rfl) hupper
  exact hraises s rest hadm herr hs

/-- Settles O23: a command that set `err` would be the excluded BYTE; without an error the invariant has no cause. -/
theorem noOtherErrors : Obligations.NoOtherErrors := by
  intro s i hinv herr hroom
  obtain ⟨t, h⟩ := exec_is_next i s
  have hrun : t.err = false := by
    by_contra hne
    obtain ⟨-, hgo, hfull, b, hi⟩ := exec_overlong_of_err h herr (by simpa using hne)
    obtain hstop | hspace := hroom b hi
    · simp [hgo] at hstop
    · exact hspace hfull
  exact ⟨t, h, hrun, (exec_keeps_inv hinv h).errCause_eq_none hrun⟩

end Sys2Proof.Machine
end

section
/-! The error state (spec/60_exceptions.md R90, R92): what it ignores, and its two exits. -/
namespace Sys2Proof.Machine

/-- The inputs that present a legal CLRERR word, RESET aside (R80). -/
abbrev Inputs.PresentsClrerr (e : Inputs) : Prop := e.cmdValid = true ∧ e.cmd = 0x6000#16

/-- The freeze, for every input but RESET and CLRERR (R90). -/
theorem clockEdge_of_err {e : Inputs} {s : State} (herr : s.err = true) (hr : e.rst = false)
    (hc : ¬ e.PresentsClrerr) : clockEdge e s = .next s := by
  obtain ⟨hrst, -⟩ | ⟨-, -, he⟩ | ⟨-, hv, i, hd, he⟩ | ⟨-, -, d, -, he⟩ := clockEdge_cases e s
  · simp [hr] at hrst
  · exact he
  · have hi : i ≠ .clrerr := by
      rintro rfl
      exact hc ⟨hv, eq_encode_of_decode hd⟩
    exact he.trans (exec_of_err herr hi)
  · exact he.trans (congrArg Host.Outcome.next (State.whenRunning_of_err _ herr))

theorem step_of_err {s : State} {e : Inputs} {rest : List Inputs} (hadm : Config.Admitted s.maxLen)
    (herr : s.err = true) (hr : e.rst = false) (hc : ¬ e.PresentsClrerr) (hs : s.script = e :: rest) :
    step s = .next (s.setScript rest) :=
  (step_cons hadm hs).trans (clockEdge_of_err (s := s.setScript rest) herr hr hc)

theorem step_clrerr {s : State} {e : Inputs} {rest : List Inputs} (hadm : Config.Admitted s.maxLen)
    (hr : e.rst = false) (hc : e.PresentsClrerr) (hs : s.script = e :: rest) :
    step s = .next { s with count := 0#12, stopped := false, err := false, errCause := .none, script := rest } := by
  obtain ⟨hv, hw⟩ := hc
  have hd : decode e.cmd = .ok .clrerr := hw ▸ decode_encode .clrerr
  rw [step_cons hadm hs, clockEdge_word _ hr hv, runWord_ok _ hd]
  exact exec_clrerr (s.setScript rest)

/-- The freeze lasts as long as neither exit is taken. -/
theorem runs_of_err {s : State} {es rest : List Inputs} (hadm : Config.Admitted s.maxLen) (herr : s.err = true)
    (hes : ∀ e ∈ es, e.rst = false ∧ ¬ e.PresentsClrerr) (hs : s.script = es ++ rest) :
    runs es.length s = .next (s.setScript rest) := by
  induction es generalizing s with
  | nil =>
    obtain rfl : s.script = rest := hs
    rfl
  | cons e es ih =>
    obtain ⟨⟨hr, hc⟩, hlater⟩ := List.forall_mem_cons.1 hes
    have hstep : step s = .next (s.setScript (es ++ rest)) := step_of_err hadm herr hr hc hs
    calc runs (es.length + 1) s = runs es.length (s.setScript (es ++ rest)) := runs_succ_of_step _ hstep
      _ = .next (s.setScript rest) := ih (s := s.setScript (es ++ rest)) hadm herr hlater rfl

/-- Settles O21: by induction on the edges, each of which only passes; the comparator shows 0 in the error state. -/
theorem errorStateFrozen : Obligations.ErrorStateFrozen :=
  fun _ _ _ hadm herr hes hs => ⟨runs_of_err hadm herr hes hs, fun _ => ⟨State.pass_of_err herr, rfl, rfl, rfl⟩⟩

/-- Settles O22: RESET and CLRERR clear the error, and every other input is frozen out. -/
theorem errorStateExits : Obligations.ErrorStateExits := by
  intro s e rest hadm herr hs
  cases hr : e.rst with
  | true => exact ⟨_, step_reset hadm hr hs, fun _ => rfl, nofun, fun _ => .inl rfl, nofun⟩
  | false =>
    by_cases hc : e.PresentsClrerr
    · exact ⟨_, step_clrerr hadm hr hc hs, nofun, fun _ _ _ => rfl, fun _ => .inr hc, nofun⟩
    · exact ⟨_, step_of_err hadm herr hr hc hs, nofun, fun _ hv hw => absurd ⟨hv, hw⟩ hc,
        fun hleft => by simp [herr] at hleft, fun _ => rfl⟩

end Sys2Proof.Machine
end

section
/-! RESET held, and the bytes after the stop (spec/70_reset_and_hazards.md R100, R101, R108): edges that leave the
registers as they are, in any number. -/
namespace Sys2Proof.Machine

/-- Edges of which none changes the registers of `s` only use up the host's inputs. -/
theorem runs_of_passing {s : State} {es rest : List Inputs} (hadm : Config.Admitted s.maxLen)
    (hes : ∀ e ∈ es, ∀ later, clockEdge e (s.setScript later) = .next (s.setScript later))
    (hs : s.script = es ++ rest) : runs es.length s = .next (s.setScript rest) := by
  induction es generalizing s with
  | nil =>
    obtain rfl : s.script = rest := hs
    rfl
  | cons e es ih =>
    obtain ⟨he, hes⟩ := List.forall_mem_cons.1 hes
    have hstep : step s = .next (s.setScript (es ++ rest)) := (step_cons hadm hs).trans (he _)
    calc runs (es.length + 1) s = runs es.length (s.setScript (es ++ rest)) := runs_succ_of_step _ hstep
      _ = .next (s.setScript rest) := ih (s := s.setScript (es ++ rest)) hadm hes rfl

/-- RESET changes nothing in the RESET state (R100). -/
theorem clockEdge_rst_resetAt {e : Inputs} (m : Nat) (later : List Inputs) (hr : e.rst = true) :
    clockEdge e (State.resetAt m later) = .next (State.resetAt m later) := by
  rw [clockEdge_rst _ hr, State.resetRegisters_eq_resetAt]
  rfl

/-- Settles O16: the first edge leaves the RESET state, in which the others change nothing. -/
theorem resetHeldSeveralEdges : Obligations.ResetHeldSeveralEdges := by
  intro s es rest hadm hne hes hs
  obtain ⟨e, es, rfl⟩ := List.exists_cons_of_ne_nil hne
  obtain ⟨hr, hes⟩ := List.forall_mem_cons.1 hes
  have hfirst : step s = .next (State.resetAt s.maxLen (es ++ rest)) := step_reset hadm hr hs
  calc runs (es.length + 1) s = runs es.length (State.resetAt s.maxLen (es ++ rest)) := runs_succ_of_step _ hfirst
    _ = .next (State.resetAt s.maxLen rest) :=
      runs_of_passing (s := State.resetAt s.maxLen (es ++ rest)) hadm
        (fun e he later => clockEdge_rst_resetAt s.maxLen later (hes e he)) rfl

/-- After the stop a BYTE line is discarded as the idle and NOP lines are (R60). -/
theorem clockEdge_line_of_stopped {s : State} {l : Line} (hstop : s.stopped = true) (hl : l.keepsThreshold = true) :
    clockEdge l.inputs s = .next s := by
  cases l with
  | reset | start | bytef | latch | setreq | clrerr | word => simp [Line.keepsThreshold] at hl
  | idle w => exact clockEdge_idle s rfl rfl
  | nop => exact (clockEdge_word s rfl rfl).trans (runWord_ok s (decode_encode .nop))
  | byte b =>
    calc clockEdge (Line.inputs (.byte b)) s = runWord (BitVec.ofNat 16 (0x2000 + b)) s := clockEdge_word s rfl rfl
      _ = exec (.byte (BitVec.ofNat 8 b)) s := runWord_ok s (decode_byte_line (of_decide_eq_true hl))
      _ = .next s := exec_byte_of_stopped _ hstop

/-- Settles O51: each of the lines passes, since the stop outlasts it. -/
theorem earlyStopKeepsVerdict : Obligations.EarlyStopKeepsVerdict := by
  intro s ls rest hadm _ hstop hls hs
  have hpass : ∀ e ∈ driven ls, ∀ later, clockEdge e (s.setScript later) = .next (s.setScript later) := by
    intro e he later
    obtain ⟨l, hl, rfl⟩ := List.mem_map.1 he
    exact clockEdge_line_of_stopped (s := s.setScript later) hstop (hls l hl)
  have hlen : (driven ls).length = ls.length := List.length_map _
  exact hlen ▸ runs_of_passing hadm hpass hs

end Sys2Proof.Machine
end

section
/-! Commands on consecutive edges (spec/70_reset_and_hazards.md R106): none waits for the one before it. -/
namespace Sys2Proof.Machine

theorem step_command {s : State} {w : CmdWord} {i : Instr} {rest : List Inputs} (hadm : Config.Admitted s.maxLen)
    (hd : decode w = .ok i) (hs : s.script = .command w :: rest) : step s = exec i (s.setScript rest) :=
  stepRunsDecodedCommand s (.command w) rest i hadm hs rfl rfl hd

theorem runs_two {s u t : State} (hu : step s = .next u) (ht : step u = .next t) : runs 2 s = .next t :=
  (runs_succ_of_step 1 hu).trans (runs_succ_of_step 0 ht)

/-- Two commands on consecutive edges: the second runs on what the first leaves, since no command reads or writes the
inputs to come. -/
theorem runs_two_commands {s u t : State} {w₁ w₂ : CmdWord} {i j : Instr} {rest : List Inputs}
    (hadm : Config.Admitted s.maxLen) (hd₁ : decode w₁ = .ok i) (hd₂ : decode w₂ = .ok j)
    (hs : s.script = .command w₁ :: .command w₂ :: rest)
    (hi : exec i (s.setScript rest) = .next u) (hj : exec j u = .next t) : runs 2 s = .next t := by
  obtain ⟨hlen, hscript⟩ := exec_frame hi
  have hfirst : step s = .next (u.setScript (.command w₂ :: rest)) :=
    (step_command hadm hd₁ hs).trans (exec_setScript hi _)
  have hsecond : step (u.setScript (.command w₂ :: rest)) = exec j (u.setScript rest) :=
    step_command (s := u.setScript (.command w₂ :: rest)) (hlen ▸ hadm) hd₂ rfl
  have hsame : u.setScript rest = u := by
    obtain rfl : u.script = rest := hscript
    rfl
  exact runs_two hfirst (hsecond.trans (hsame.symm ▸ hj))

theorem decode_byte_operand (b : Byte) : decode (BitVec.ofNat 16 (0x2000 + b.toNat)) = .ok (.byte b) := by
  simpa using decode_byte_line (Nat.le_of_lt_succ b.isLt)

theorem decode_bytef_operand (b : Byte) : decode (BitVec.ofNat 16 (0x3000 + b.toNat)) = .ok (.bytef b) := by
  simpa using decode_bytef_line (Nat.le_of_lt_succ b.isLt)

/-- The count that BYTEF writes keeps all its bits (R65). -/
theorem toNat_ofNat_lzb (b : Byte) : (BitVec.ofNat 12 (lzb b)).toNat = lzb b := by
  have := lzb_le b
  rw [BitVec.toNat_ofNat]
  omega

/-- BYTE where OVERLONG is shut out: discarded after the stop, added before it (R60). -/
theorem exec_byte_of_no_overlong {s : State} (b : Byte) (hinv : s.Inv) (herr : s.err = false)
    (hspace : s.stopped = true ∨ s.count.toNat ≠ Config.countMax s.maxLen) :
    ∃ u : State, exec (.byte b) s = .next u ∧ u.err = false ∧
      u.count.toNat = if s.stopped = true then s.count.toNat else s.count.toNat + lzb b := by
  cases hstop : s.stopped with
  | true => exact ⟨s, exec_byte_of_stopped b hstop, herr, rfl⟩
  | false =>
    have hroom : s.count.toNat ≠ s.countMax := hspace.resolve_left (by simp [hstop])
    obtain ⟨hexec, hval⟩ := exec_byte_of_room b hinv.1 herr hstop (hinv.room hstop hroom).2
    exact ⟨_, hexec, herr, hval⟩

/-- A command directly after RESET runs on the RESET state. -/
theorem runs_reset_command {s : State} {v : Bool} {w₁ w₂ : CmdWord} {j : Instr} {rest : List Inputs}
    (hadm : Config.Admitted s.maxLen) (hd : decode w₂ = .ok j)
    (hs : s.script = Line.inputs (.reset v w₁) :: .command w₂ :: rest) :
    runs 2 s = exec j (State.resetAt s.maxLen rest) := by
  obtain ⟨t, ht⟩ := exec_is_next j (State.resetAt s.maxLen rest)
  have hsecond : step (State.resetAt s.maxLen (.command w₂ :: rest)) = exec j (State.resetAt s.maxLen rest) :=
    step_command (s := State.resetAt s.maxLen (.command w₂ :: rest)) hadm hd rfl
  exact (runs_two (step_reset hadm rfl hs) (hsecond.trans ht)).trans ht.symm

/-- `pass` directly after SETREQ compares with the new threshold. -/
theorem step_setreq_pass {s : State} {n : Number} {rest : List Inputs} (hadm : Config.Admitted s.maxLen)
    (herr : s.err = false) (hs : s.script = .command (encode (.setreq n)) :: rest) :
    ∃ t : State, step s = .next t ∧ (t.pass = true ↔ n.toNat ≤ s.count.toNat) :=
  ⟨_, (step_command hadm (decode_encode _) hs).trans (exec_setreq_of_running (s := s.setScript rest) n herr),
    (State.pass_iff _).trans (and_iff_right herr)⟩

/-- LATCH directly after BYTE stores the count with that byte. -/
theorem runs_byte_latch {s : State} {b : Byte} {rest : List Inputs} (hinv : s.Inv) (herr : s.err = false)
    (hspace : s.stopped = true ∨ s.count.toNat ≠ Config.countMax s.maxLen)
    (hs : s.script = driven [.byte b.toNat, .latch] ++ rest) :
    ∃ t : State, runs 2 s = .next t ∧ t.count = t.required ∧
      t.required.toNat = if s.stopped = true then s.count.toNat else s.count.toNat + lzb b := by
  obtain ⟨u, hbyte, huerr, hcount⟩ := exec_byte_of_no_overlong (s := s.setScript rest) b hinv herr hspace
  have hrun : runs 2 s = .next (u.setRequired u.count) :=
    runs_two_commands hinv.1 (decode_byte_operand b) (decode_encode .latch) hs hbyte (exec_latch_of_running huerr)
  exact ⟨_, hrun, rfl, hcount⟩

/-- BYTE directly after START adds to zero. -/
theorem runs_start_byte {s : State} {b : Byte} {rest : List Inputs} (hadm : Config.Admitted s.maxLen)
    (herr : s.err = false) (hs : s.script = driven [.start, .byte b.toNat] ++ rest) :
    ∃ t : State, runs 2 s = .next t ∧ t.count.toNat = lzb b ∧ t.err = false := by
  have hbyte := (exec_bytef_eq_start_byte (s := s.setScript rest) b hadm herr).symm.trans
    (exec_bytef_of_running b hadm herr)
  have hrun := runs_two_commands hadm (decode_encode .start) (decode_byte_operand b) hs
    (exec_start_of_running (s := s.setScript rest) herr) hbyte
  exact ⟨_, hrun, toNat_ofNat_lzb b, herr⟩

/-- BYTEF directly after BYTE reads neither the count nor the stop it left. -/
theorem runs_byte_bytef {s : State} {b c : Byte} {rest : List Inputs} (hinv : s.Inv) (herr : s.err = false)
    (hspace : s.stopped = true ∨ s.count.toNat ≠ Config.countMax s.maxLen)
    (hs : s.script = driven [.byte b.toNat, .bytef c.toNat] ++ rest) :
    ∃ t : State, runs 2 s = .next t ∧ t.count.toNat = lzb c ∧ t.stopped = decide (c ≠ 0x00#8) := by
  obtain ⟨u, hbyte, huerr, -⟩ := exec_byte_of_no_overlong (s := s.setScript rest) b hinv herr hspace
  have hadm : Config.Admitted u.maxLen := (exec_frame hbyte).1 ▸ hinv.1
  have hrun := runs_two_commands hinv.1 (decode_byte_operand b) (decode_bytef_operand c) hs hbyte
    (exec_bytef_of_running c hadm huerr)
  exact ⟨_, hrun, toNat_ofNat_lzb c, rfl⟩

/-- Settles O39: each command completes within its edge, so the one after it finds all its writes. -/
theorem backToBackCommands : Obligations.BackToBackCommands := by
  refine ⟨fun s w₁ w₂ i j rest hadm hd₁ hd₂ hs => ?_, fun s v w₁ w₂ j rest hadm hd hs => runs_reset_command hadm hd hs,
    fun s n rest hadm herr hs => ?_, fun s b c rest hinv herr => ?_⟩
  · obtain ⟨u, hi⟩ := exec_is_next i (s.setScript rest)
    obtain ⟨t, hj⟩ := exec_is_next j u
    exact ⟨u, t, hi, hj, runs_two_commands hadm hd₁ hd₂ hs hi hj⟩
  · obtain ⟨t, ht, hpass⟩ := step_setreq_pass hadm herr hs
    exact ⟨t, ht, fun _ => hpass⟩
  · exact ⟨runs_byte_latch hinv herr, runs_start_byte hinv.1 herr, runs_byte_bytef hinv herr⟩

end Sys2Proof.Machine
end
